-- ==== Sys2Proof/Word.lean ====
section
/-! DEFINITION. The bit vectors of the block (spec/00_scope.md R9: every register, operand and port is a bit vector
of stated width, bit 0 least significant). -/

namespace Sys2Proof

/-- A byte: a checksum byte, the configuration byte (R14, R15). -/
abbrev Byte := BitVec 8

/-- A raw sensor word and the `data` field of a response (R27, R45). -/
abbrev Word16 := BitVec 16

/-- A command word `cmd[23:0]` (R36). -/
abbrev CmdWord := BitVec 24

/-- The bit pattern of an IEEE 754 binary32 number (R74, 93 G1). -/
abbrev Bits32 := BitVec 32

end Sys2Proof
end

