-- ==== Sys2Proof/Config.lean ====
section
/-! DEFINITION. What is fixed for this hardware and shapes its types (spec/00_scope.md R5). Every parameter is fixed
and none is left open to the model, so there is no free value here. The numeric parameters a result depends on stand in
Sys2Proof/Machine/Params.lean. -/

namespace Sys2Proof.Config

/-- CMD_WIDTH of R5. -/
def cmdWidth : Nat := 24

/-- The number of commands (R5). -/
def numCommands : Nat := 14

/-- REPLY_LEN of R5: bytes of a checked sensor reply. -/
def replyLen : Nat := 3

end Sys2Proof.Config
end

