-- ==== Sys2Proof/Syntax.lean ====
section
/-! DEFINITION. The commands of the block, one constructor per row of spec/opcode_table.json (spec/30_encoding.md R39),
with operands of exactly the widths of R37, so that an operand too wide for its opcode cannot be written down. -/

namespace Sys2Proof

/-- The 14 commands. A `byte` is R37's layout B, a `code` layout C (`code[1]` is configuration bit 7, `code[0]` bit 0,
R38), an `en` layout F (true means enabled, R38), a `raw` layout W. -/
inductive Instr where
  | crcInit
  | crcAdd (byte : Byte)
  | crcValue
  | cfgLoad (byte : Byte)
  | cfgRaw
  | cfgGres
  | cfgGvdd
  | cfgGhtr
  | cfgGotp
  | cfgSres (code : BitVec 2)
  | cfgShtr (en : Bool)
  | cfgSotp (en : Bool)
  | decT (raw : Word16)
  | decH (raw : Word16)
  deriving DecidableEq, Repr

/-- The closed set of measurement kinds (R5, R80); the opcode selects it. -/
inductive MeasurementKind where
  | temperature
  | humidity
  deriving DecidableEq, Repr

end Sys2Proof
end

