-- ==== Sys2Proof/WellFormed.lean ====
section
/-! DEFINITION. When an operand fits its opcode and when a word spells a command (spec/30_encoding.md R37, R39, R40).
The table of R39 is held here as data; Sys2Proof/Decode.lean follows the algorithm of R41 instead, and the two are
compared by statements. -/

namespace Sys2Proof

/-- The five operand layouts of R37. -/
inductive Layout where
  | N | B | C | F | W
  deriving DecidableEq, Repr

/-- How many low bits of the operand a layout uses (R37). -/
def Layout.usedBits : Layout → Nat
  | .N => 0
  | .B => 8
  | .C => 2
  | .F => 1
  | .W => 16

/-- The unused upper bits of the operand are zero (R37, R40). -/
def Layout.fits (l : Layout) (operand : Word16) : Bool := operand >>> l.usedBits = 0

/-- The layout of each command (R37, R39). -/
def Instr.layout : Instr → Layout
  | .crcInit | .crcValue | .cfgRaw | .cfgGres | .cfgGvdd | .cfgGhtr | .cfgGotp => .N
  | .crcAdd _ | .cfgLoad _ => .B
  | .cfgSres _ => .C
  | .cfgShtr _ | .cfgSotp _ => .F
  | .decT _ | .decH _ => .W

/-- The operand field an instruction stands for, zero where its layout has no operand. -/
def Instr.operand : Instr → Word16
  | .crcInit | .crcValue | .cfgRaw | .cfgGres | .cfgGvdd | .cfgGhtr | .cfgGotp => 0
  | .crcAdd b | .cfgLoad b => b.setWidth 16
  | .cfgSres c => c.setWidth 16
  | .cfgShtr e | .cfgSotp e => (BitVec.ofBool e).setWidth 16
  | .decT r | .decH r => r

/-- An instruction is well formed when its operand fits its layout. Every `Instr` is: its operands have the widths of
R37 by type. -/
def Instr.wf (i : Instr) : Bool := i.layout.fits i.operand

/-- One row of the opcode map (R39). -/
structure OpcodeRow where
  mnemonic : String
  layout : Layout
  mask : CmdWord
  pattern : CmdWord
  deriving DecidableEq, Repr

/-- A word spells the row's command exactly when `(w AND mask) == match` (R39). -/
def OpcodeRow.matchesWord (r : OpcodeRow) (w : CmdWord) : Bool := w &&& r.mask = r.pattern

/-- The opcode map, row by row as R39 prints it. -/
def opcodeTable : List OpcodeRow :=
  [ ⟨"CRC.INIT", .N, 0xFFFFFF, 0x100000⟩,
    ⟨"CRC.ADD", .B, 0xFFFF00, 0x110000⟩,
    ⟨"CRC.VALUE", .N, 0xFFFFFF, 0x120000⟩,
    ⟨"CFG.LOAD", .B, 0xFFFF00, 0x200000⟩,
    ⟨"CFG.RAW", .N, 0xFFFFFF, 0x210000⟩,
    ⟨"CFG.GRES", .N, 0xFFFFFF, 0x220000⟩,
    ⟨"CFG.GVDD", .N, 0xFFFFFF, 0x230000⟩,
    ⟨"CFG.GHTR", .N, 0xFFFFFF, 0x240000⟩,
    ⟨"CFG.GOTP", .N, 0xFFFFFF, 0x250000⟩,
    ⟨"CFG.SRES", .C, 0xFFFFFC, 0x260000⟩,
    ⟨"CFG.SHTR", .F, 0xFFFFFE, 0x270000⟩,
    ⟨"CFG.SOTP", .F, 0xFFFFFE, 0x280000⟩,
    ⟨"DEC.T", .W, 0xFF0000, 0x300000⟩,
    ⟨"DEC.H", .W, 0xFF0000, 0x310000⟩ ]

/-- A word is legal when it matches a row of R39; every other word is an illegal command (R40). -/
def CmdWord.legal (w : CmdWord) : Bool := opcodeTable.any (·.matchesWord w)

end Sys2Proof
end

