-- ==== Sys2Proof/Decode.lean ====
section
/-! DEFINITION. The decode algorithm of spec/30_encoding.md R41, total on any 24-bit word, and the encoder, written from
the patterns of R39. -/

namespace Sys2Proof

/-- The two ways a word can be illegal (R40 (a) and (b)); both raise IllegalCommand. -/
inductive DecodeError where
  /-- The opcode is not one of the 14. -/
  | unknownOpcode
  /-- A bit of the operand outside the layout's used bits is 1. -/
  | unusedOperandBits
  deriving DecidableEq, Repr

/-- `opcode = cmd[23:16]` (R36). -/
def opcodeOf (w : CmdWord) : BitVec 8 := w.extractLsb' 16 8

/-- `operand = cmd[15:0]` (R36). -/
def operandOf (w : CmdWord) : Word16 := w.extractLsb' 0 16

/-- The unused bits of the operand must be zero (R40). -/
def accept (unusedZero : Bool) (i : Instr) : Except DecodeError Instr :=
  if unusedZero then .ok i else .error .unusedOperandBits

/-- The case distinction of R41 on the opcode `op` and the operand `x`. -/
def decodeFields (op : BitVec 8) (x : Word16) : Except DecodeError Instr :=
  if op = 0x10 then accept (x = 0) .crcInit
  else if op = 0x11 then accept (x.extractLsb' 8 8 = 0) (.crcAdd (x.extractLsb' 0 8))
  else if op = 0x12 then accept (x = 0) .crcValue
  else if op = 0x20 then accept (x.extractLsb' 8 8 = 0) (.cfgLoad (x.extractLsb' 0 8))
  else if op = 0x21 then accept (x = 0) .cfgRaw
  else if op = 0x22 then accept (x = 0) .cfgGres
  else if op = 0x23 then accept (x = 0) .cfgGvdd
  else if op = 0x24 then accept (x = 0) .cfgGhtr
  else if op = 0x25 then accept (x = 0) .cfgGotp
  else if op = 0x26 then accept (x.extractLsb' 2 14 = 0) (.cfgSres (x.extractLsb' 0 2))
  else if op = 0x27 then accept (x.extractLsb' 1 15 = 0) (.cfgShtr (x.getLsbD 0))
  else if op = 0x28 then accept (x.extractLsb' 1 15 = 0) (.cfgSotp (x.getLsbD 0))
  else if op = 0x30 then .ok (.decT x)
  else if op = 0x31 then .ok (.decH x)
  else .error .unknownOpcode

/-- `decode` of R41. -/
def decode (w : CmdWord) : Except DecodeError Instr := decodeFields (opcodeOf w) (operandOf w)

/-- `encode` of R41: R39's pattern with the operand bits filled in. -/
def encode : Instr → CmdWord
  | .crcInit => 0x100000
  | .crcAdd b => 0x1100#16 ++ b
  | .crcValue => 0x120000
  | .cfgLoad b => 0x2000#16 ++ b
  | .cfgRaw => 0x210000
  | .cfgGres => 0x220000
  | .cfgGvdd => 0x230000
  | .cfgGhtr => 0x240000
  | .cfgGotp => 0x250000
  | .cfgSres c => 0b0010011000000000000000#22 ++ c
  | .cfgShtr e => 0b00100111000000000000000#23 ++ BitVec.ofBool e
  | .cfgSotp e => 0b00101000000000000000000#23 ++ BitVec.ofBool e
  | .decT r => 0x30#8 ++ r
  | .decH r => 0x31#8 ++ r

/-- The instruction read from a table row's bits, numbered as spec/opcode_table.json numbers them. A command is one
24-bit word; a row of more bits than that does not exist, so it decodes to nothing. -/
def decodeTableWord (nbits w : Nat) : Option Instr :=
  if nbits ≤ Config.cmdWidth then (decode (BitVec.ofNat 24 (w % 2 ^ nbits))).toOption else none

end Sys2Proof
end

