-- ==== Sys2Proof/Machine/State.lean ====
section
/-! DEFINITION. The state of the block as plain data: the four registers of spec/10_state.md R13, and the two ports the
host drives and reads (spec/00_scope.md R7, R8). -/

namespace Sys2Proof.Machine

/-- The two exceptions the block raises (R82). -/
inductive ExceptionCause where
  /-- A word that spells no command (R83). -/
  | illegalCommand
  /-- A `CFG.*` command other than `CFG.LOAD` while `CFG_VALID == 0` (R84). -/
  | configNotLoaded
  deriving DecidableEq, Repr

/-- The reading class of a response (R46). -/
inductive ReadingClass where
  | noReading
  | normal
  | errorLow
  | errorHigh
  deriving DecidableEq, Repr

/-- The registers `CFG` and `CFG_VALID` together, the spec's ConfigRegister (00_scope.md glossary). While
`CFG_VALID = 0` the byte has no value and none may be given to it (R15, R25, R94); so the tag is `CFG_VALID` and the
byte exists only in `loaded`. DESIGN CHOICE of representation, as R15, R25 and 93 U5 allow it (log entry 1, safe). -/
inductive ConfigRegister where
  /-- `CFG_VALID = 0`, `CFG` without a value. -/
  | notLoaded
  /-- `CFG_VALID = 1`, `CFG = byte`. -/
  | loaded (byte : Byte)
  deriving DecidableEq, Repr

/-- The response record of R45. `phys_valid` and `phys` are one optional value, as R45 recommends; their wires are
`physValid` and `physWires` (Sys2Proof/Machine/Operands.lean). -/
structure Resp where
  ok : Bool
  data : Word16
  cls : ReadingClass
  phys : Option Bits32
  deriving DecidableEq, Repr

/-- What the host drives in one step: the reset input and the command port (R94, R95, 92 D2). Two commands at once
cannot be written down (R101). -/
structure PortInput where
  rst : Bool
  cmd : Option CmdWord
  deriving DecidableEq, Repr

/-- The state. `crc`, `cfg` (holding both `CFG` and `CFG_VALID`) and `fault` are the whole architectural state (R13).
`input` and `resp` are the model's own: what the host presents in this step and the following ones, first step first,
and the response of the step just made. DESIGN CHOICE (log entries 2 and 3, safe): the host's interface of this model has a step from state
to state, the spec's `step` takes a command and gives a response (R6). -/
structure State where
  /-- `CRC`, the checksum accumulator (R14). -/
  crc : Byte
  /-- `CFG` and `CFG_VALID` (R15, R16). -/
  cfg : ConfigRegister
  /-- `FAULT`: bit 0 IllegalCommand, bit 1 ConfigNotLoaded, sticky (R17). -/
  fault : BitVec 2
  /-- What the host presents, step by step. An exhausted list is a host that presents nothing more (R7). -/
  input : List PortInput
  /-- The response port after the last step, `none` when no command was answered in it (R7, R45, R95). -/
  resp : Option Resp
  deriving DecidableEq, Repr

/-- Why the machine can stop. It never does: `step` of the spec is total (R6), a rejected command is a next state (R85),
and the block has no hold or stuck outcome (R102). So there is no reason to name, and no step raises one (safe). -/
inductive Fault : Type
  deriving DecidableEq, Repr

/-- Why an instruction can have no meaning. -/
inductive Refusal where
  /-- The instruction of this mnemonic has no meaning yet: raised by a refused arm of `exec` only, and there is no such
  arm (safe). -/
  | notModelled (mnemonic : String)
  deriving DecidableEq, Repr

/-- What a step or a meaning answers. -/
abbrev StepResult := Host.Outcome State Fault Refusal

/-- The state after reset: `CRC = 0x00`, `CFG_VALID = 0` with `CFG` without a value, `FAULT = 0b00` (R25, R94). The
two ports are the model's own: the host presents nothing and no response stands there (DESIGN CHOICE, log entries
2 and 3). -/
def State.reset : State where
  crc := 0x00
  cfg := .notLoaded
  fault := 0b00
  input := []
  resp := none

end Sys2Proof.Machine
end

