-- ==== Sys2Proof/Machine/Params.lean ====
section
/-! DEFINITION. The numeric parameters of spec/00_scope.md R5 that results depend on. -/

namespace Sys2Proof.Machine

/-- CRC_POLY: the low eight coefficients of x^8+x^5+x^4+1 (R5, R47). -/
def crcPoly : Byte := 0x31

/-- CRC_INIT, the initial remainder (R5, R47). -/
def crcInitValue : Byte := 0x00

/-- SENTINEL_LOW (R5, R71). -/
def sentinelLow : Word16 := 0x0000

/-- SENTINEL_HIGH (R5, R71). -/
def sentinelHigh : Word16 := 0xFFFF

/-- The mask that clears the two status bits (R5, R72). -/
def valueMask : Word16 := 0xFFFC

/-- FULL_SCALE, the divisor of the raw value (R5, R74). -/
def fullScale : Nat := 65536

/-- T_SCALE_F of R74, 175.72 rounded once to binary32. -/
def tScale32 : Bits32 := 0x432FB852

/-- T_OFFSET_F of R74, -46.85 rounded once to binary32. -/
def tOffset32 : Bits32 := 0xC23B6666

/-- H_SCALE_F of R74, 125.0 exactly. -/
def hScale32 : Bits32 := 0x42FA0000

/-- H_OFFSET_F of R74, -6.0 exactly. -/
def hOffset32 : Bits32 := 0xC0C00000

end Sys2Proof.Machine
end

