-- ==== Sys2Proof/Machine/Binary32.lean ====
section
/-! DEFINITION. IEEE 754 binary32 arithmetic as far as spec/42_reading_decoder.md R74 uses it: `fl32`, multiplication
and addition, each one exact operation followed by one rounding to nearest, ties to even (92 D15, 93 G1 and G2). Exact
values are integers counted in units of 2^-149, the least binary32 subnormal, so that no step but `fl32` rounds. -/

namespace Sys2Proof.Machine

/-- The integer nearest to `n / d`, ties to even (93 G2). -/
def roundHalfEven (n d : Nat) : Nat :=
  let q := n / d
  let r := n % d
  if 2 * r < d then q
  else if d < 2 * r then q + 1
  else q + q % 2

/-- How many bits of `n / d`, counted in units of 2^-149, lie below the 24 that a binary32 significand holds. -/
def excessBits (n d : Nat) : Nat := Nat.log2 (n * 2 ^ 149 / d) - 23

/-- The 31 exponent and fraction bits of the binary32 number nearest to `n / d`; at and above the overflow threshold, those
of infinity. Adding the rounded significand to the exponent field lets a carry out of it raise the exponent. -/
def magnitude32 (n d : Nat) : Nat :=
  let k := excessBits n d
  min (k * 2 ^ 23 + roundHalfEven (n * 2 ^ 149) (d * 2 ^ k)) 0x7F800000

/-- `fl32` of R10 and R74: the binary32 pattern nearest to the rational `n / d`, ties to even. -/
def fl32 (n : Int) (d : Nat) : Bits32 :=
  BitVec.ofNat 32 (magnitude32 n.natAbs d + if n < 0 then 2 ^ 31 else 0)

/-- The value of a finite binary32 pattern, in units of 2^-149 (93 G1: sign bit 31, exponent bits 30 to 23 biased by
127, fraction bits 22 to 0). R75: no infinity and no NaN ever arises here. -/
def units32 (f : Bits32) : Int :=
  let e := (f.extractLsb' 23 8).toNat
  let m := (f.extractLsb' 0 23).toNat
  let mag : Nat := if e = 0 then m else (2 ^ 23 + m) * 2 ^ (e - 1)
  if f.getLsbD 31 then -(mag : Int) else mag

/-- The product of two finite binary32 numbers, rounded once. -/
def mul32 (a b : Bits32) : Bits32 := fl32 (units32 a * units32 b) (2 ^ 149 * 2 ^ 149)

/-- The sum of two finite binary32 numbers, rounded once. -/
def add32 (a b : Bits32) : Bits32 := fl32 (units32 a + units32 b) (2 ^ 149)

end Sys2Proof.Machine
end

