-- ==== Sys2Proof/Machine/Flags.lean ====
section
/-! DEFINITION. The flag-like state of the block (spec/10_state.md R16, R17, R20) and the status ports (R7). There are no
arithmetic condition codes. -/

namespace Sys2Proof.Machine

/-- The cause code, which is `FAULT` with only that exception's bit set (R46, R82). -/
def causeCode : ExceptionCause → BitVec 2
  | .illegalCommand => 0b01
  | .configNotLoaded => 0b10

/-- `FAULT <- FAULT OR cause_code` (R85). -/
def recordFault (c : ExceptionCause) (fault : BitVec 2) : BitVec 2 := fault ||| causeCode c

/-- The register `CFG_VALID` (R16). -/
def cfgValid (s : State) : Bool :=
  match s.cfg with
  | .notLoaded => false
  | .loaded _ => true

/-- The status port `st_cfg_valid` (R7). -/
def stCfgValid (s : State) : Bool := cfgValid s

/-- The status port `st_fault[1:0]` (R7). -/
def stFault (s : State) : BitVec 2 := s.fault

end Sys2Proof.Machine
end

