-- ==== Sys2Proof/Machine/Operands.lean ====
section
/-! DEFINITION. The bit fields of the configuration byte (spec/10_state.md R15, spec/41_config_codec.md), the enumeration
codes of spec/30_encoding.md R46, and the fields of a response (R45). -/

namespace Sys2Proof.Machine

/-- `zext_16` (R9). -/
def zext16 {n : Nat} (v : BitVec n) : Word16 := v.setWidth 16

/-- RES, `{CFG[7], CFG[0]}` (R60). -/
def resField (b : Byte) : BitVec 2 := b.extractLsb' 7 1 ++ b.extractLsb' 0 1

/-- VDD, `CFG[6]` (R61). -/
def vddField (b : Byte) : BitVec 1 := b.extractLsb' 6 1

/-- The reserved bits `CFG[5:3]` (R15). -/
def reservedField (b : Byte) : BitVec 3 := b.extractLsb' 3 3

/-- HTR, `CFG[2]` (R62). -/
def htrField (b : Byte) : BitVec 1 := b.extractLsb' 2 1

/-- Auto-reload enabled, `NOT CFG[1]` (R63; the polarity is 90_conflicts.md C1, log entry 7). -/
def otpField (b : Byte) : BitVec 1 := ~~~(b.extractLsb' 1 1)

/-- `{code[1], CFG[6:1], code[0]}` (R64). -/
def setRes (code : BitVec 2) (b : Byte) : Byte := code.extractLsb' 1 1 ++ b.extractLsb' 1 6 ++ code.extractLsb' 0 1

/-- `{CFG[7:3], en, CFG[1:0]}` (R65). -/
def setHtr (en : Bool) (b : Byte) : Byte := b.extractLsb' 3 5 ++ BitVec.ofBool en ++ b.extractLsb' 0 2

/-- `{CFG[7:2], NOT en, CFG[0]}` (R66; polarity C1, log entry 7). -/
def setOtp (en : Bool) (b : Byte) : Byte := b.extractLsb' 2 6 ++ ~~~(BitVec.ofBool en) ++ b.extractLsb' 0 1

/-- The measurement resolutions (R46): humidity bits, then temperature bits. -/
inductive Resolution where
  | rh12T14 | rh8T12 | rh10T13 | rh11T11
  deriving DecidableEq, Repr

/-- The resolution of a two-bit code (R46). -/
def resolutionOfCode (c : BitVec 2) : Resolution :=
  if c = 0b00 then .rh12T14 else if c = 0b01 then .rh8T12 else if c = 0b10 then .rh10T13 else .rh11T11

/-- The two-bit code of a resolution (R46). -/
def resolutionCode : Resolution → BitVec 2
  | .rh12T14 => 0b00
  | .rh8T12 => 0b01
  | .rh10T13 => 0b10
  | .rh11T11 => 0b11

/-- The supply-voltage status (R46). -/
inductive SupplyVoltage where
  | high | low
  deriving DecidableEq, Repr

/-- Code 0 is high, 1 is low (R46, R61). -/
def supplyVoltageOfCode (c : BitVec 1) : SupplyVoltage := if c = 0 then .high else .low

/-- The class code `class[1:0]` (R46). -/
def classCode : ReadingClass → BitVec 2
  | .noReading => 0b00
  | .normal => 0b01
  | .errorLow => 0b10
  | .errorHigh => 0b11

/-- The field `phys_valid` (R45). -/
def physValid (r : Resp) : Bool := r.phys.isSome

/-- The field `phys`: the pattern when `phys_valid = 1`, otherwise the filler `0x00000000` (R45). -/
def physWires (r : Resp) : Bits32 := r.phys.getD 0

/-- The response of an executed command that is no decode: `respond(data = d)` (R10, R45). -/
def executedResp (data : Word16) : Resp := ⟨true, data, .noReading, none⟩

/-- The rejection response (R45, R85). -/
def rejectedResp (c : ExceptionCause) : Resp := ⟨false, zext16 (causeCode c), .noReading, none⟩

/-- A reading as the source types it: a tagged union whose sentinels carry no value (R78). -/
inductive Reading where
  | normal (value : Word16) (phys : Bits32)
  | errorLow
  | errorHigh
  deriving DecidableEq, Repr

/-- The reading a response carries, if it is that of a decode (R45, R78). -/
def readingOf (r : Resp) : Option Reading :=
  match r.cls with
  | .noReading => none
  | .normal => r.phys.map (.normal r.data)
  | .errorLow => some .errorLow
  | .errorHigh => some .errorHigh

end Sys2Proof.Machine
end

