-- ==== Sys2Proof/Machine/Ops.lean ====
section
/-! DEFINITION. The operations every command is written with: answering (spec/00_scope.md R10), taking an exception
(spec/60_exceptions.md R85), the common precondition of the codec (spec/41_config_codec.md R57), and what the host does at
the ports (R7, R94, R95). There is no return from an exception: a rejection transfers no control and saves nothing
(R88). -/

namespace Sys2Proof.Machine

/-- Give the response of an executed command (R10). -/
def answer (r : Resp) (s : State) : StepResult := .next { s with resp := some r }

/-- `respond(data = d)` (R10). -/
def respond (data : Word16) (s : State) : StepResult := answer (executedResp data) s

/-- Taking an exception (R85): the cause is OR-ed into `FAULT`, `CRC`, `CFG` and `CFG_VALID` are unchanged, the response
is the rejection. -/
def raise (c : ExceptionCause) (s : State) : StepResult :=
  answer (rejectedResp c) { s with fault := recordFault c s.fault }

/-- `require CFG_VALID` (R57): with a loaded byte go on with it, else raise ConfigNotLoaded. -/
def requireCfg (s : State) (k : Byte → StepResult) : StepResult :=
  match s.cfg with
  | .notLoaded => raise .configNotLoaded s
  | .loaded b => k b

/-- Write `CRC`. -/
def writeCrc (c : Byte) (s : State) : State := { s with crc := c }

/-- Write `CFG`, which then holds a byte (`CFG_VALID = 1`). -/
def writeCfg (b : Byte) (s : State) : State := { s with cfg := .loaded b }

/-- What the host does in one step (R7, R8, R95). -/
inductive HostMove where
  | idle
  | reset
  | command (w : CmdWord)
  deriving DecidableEq, Repr

/-- Reset wins over a command in the same step (R95); with neither, nothing happens (R7). -/
def moveOf (p : PortInput) : HostMove :=
  if p.rst then .reset
  else match p.cmd with
    | none => .idle
    | some w => .command w

/-- The host's move in this step; an exhausted input is a host that presents nothing (R7). -/
def currentMove (s : State) : HostMove :=
  match s.input with
  | [] => .idle
  | p :: _ => moveOf p

/-- The state with this step's port sample used up. -/
def consume (s : State) : State := { s with input := s.input.tail }

/-- Neither a command nor reset: the four registers hold and no response is produced (R7, 92 D27). -/
def holdState (s : State) : StepResult := .next { s with resp := none }

/-- The reset event (R94): the registers take the reset state whatever they were, and there is no response (R95). The
host goes on with what it presents next. -/
def applyReset (s : State) : StepResult := .next { State.reset with input := s.input }

/-- The state with the host presenting the command word `w` in the coming step, before everything it presents later. -/
def present (w : CmdWord) (s : State) : State := { s with input := ⟨false, some w⟩ :: s.input }

end Sys2Proof.Machine
end

