-- ==== Sys2Proof/Machine/Checksum.lean ====
section
/-! DEFINITION. The checksum unit (spec/40_checksum.md): `crc8_add`, its fold, and CRC.INIT, CRC.ADD, CRC.VALUE. -/

namespace Sys2Proof.Machine

/-- One iteration of R48: the high bit is tested on the value being shifted. -/
def crcShift (r : Byte) : Byte := if r.getLsbD 7 then (r <<< 1) ^^^ crcPoly else r <<< 1

/-- `n` iterations. -/
def crcShifts : Nat → Byte → Byte
  | 0, r => r
  | n + 1, r => crcShifts n (crcShift r)

/-- `crc8_add` of R48. -/
def crc8Add (c b : Byte) : Byte := crcShifts 8 (c ^^^ b)

/-- `crc8_fold` of R52. -/
def crc8Fold (c : Byte) : List Byte → Byte
  | [] => c
  | b :: rest => crc8Fold (crc8Add c b) rest

/-- `crc8(s)`, the checksum of a byte sequence (R52). -/
def crc8 (bytes : List Byte) : Byte := crc8Fold crcInitValue bytes

/-- R49. -/
def execCrcInit (s : State) : StepResult := respond 0x0000 (writeCrc crcInitValue s)

/-- R50. -/
def execCrcAdd (byte : Byte) (s : State) : StepResult := respond 0x0000 (writeCrc (crc8Add s.crc byte) s)

/-- R51. -/
def execCrcValue (s : State) : StepResult := respond (zext16 s.crc) s

end Sys2Proof.Machine
end

