-- ==== Sys2Proof/Machine/Codec.lean ====
section
/-! DEFINITION. The configuration-register codec (spec/41_config_codec.md): the nine `CFG.*` commands. -/

namespace Sys2Proof.Machine

/-- R58: every byte is accepted, and `CFG_VALID` becomes 1. -/
def execCfgLoad (byte : Byte) (s : State) : StepResult := respond 0x0000 (writeCfg byte s)

/-- R59. -/
def execCfgRaw (s : State) : StepResult := requireCfg s fun b => respond (zext16 b) s

/-- R60. -/
def execCfgGres (s : State) : StepResult := requireCfg s fun b => respond (zext16 (resField b)) s

/-- R61. -/
def execCfgGvdd (s : State) : StepResult := requireCfg s fun b => respond (zext16 (vddField b)) s

/-- R62. -/
def execCfgGhtr (s : State) : StepResult := requireCfg s fun b => respond (zext16 (htrField b)) s

/-- R63. -/
def execCfgGotp (s : State) : StepResult := requireCfg s fun b => respond (zext16 (otpField b)) s

/-- R64. -/
def execCfgSres (code : BitVec 2) (s : State) : StepResult :=
  requireCfg s fun b => respond 0x0000 (writeCfg (setRes code b) s)

/-- R65. -/
def execCfgShtr (en : Bool) (s : State) : StepResult :=
  requireCfg s fun b => respond 0x0000 (writeCfg (setHtr en b) s)

/-- R66. -/
def execCfgSotp (en : Bool) (s : State) : StepResult :=
  requireCfg s fun b => respond 0x0000 (writeCfg (setOtp en b) s)

end Sys2Proof.Machine
end

