-- ==== Sys2Proof/Machine/Reading.lean ====
section
/-! DEFINITION. The reading decoder (spec/42_reading_decoder.md): classification, value, conversion, and DEC.T, DEC.H. -/

namespace Sys2Proof.Machine

/-- `classify` of R71, in the source's order, on the whole word. -/
def classify (raw : Word16) : ReadingClass :=
  if raw = sentinelLow then .errorLow
  else if raw = sentinelHigh then .errorHigh
  else .normal

/-- The value of a normal reading: the two status bits cleared (R72). -/
def valueOf (raw : Word16) : Word16 := raw &&& valueMask

/-- The scale of a kind (R74, R80). -/
def scale32 : MeasurementKind → Bits32
  | .temperature => tScale32
  | .humidity => hScale32

/-- The offset of a kind (R74, R80). -/
def offset32 : MeasurementKind → Bits32
  | .temperature => tOffset32
  | .humidity => hOffset32

/-- `q = v / 65536` of R74. -/
def fraction32 (v : Word16) : Bits32 := fl32 v.toNat fullScale

/-- `p = fl32(K * q)` of R74. -/
def scaled32 (kind : MeasurementKind) (v : Word16) : Bits32 := mul32 (scale32 kind) (fraction32 v)

/-- `phys32` of R74: division, then multiplication, then addition, and no clamping (R75). -/
def phys32 (kind : MeasurementKind) (v : Word16) : Bits32 := add32 (offset32 kind) (scaled32 kind v)

/-- The response of a decode (R76, R77): a normal word gives its value and its physical value, a sentinel the fillers
of R78. -/
def decodedResp (kind : MeasurementKind) (raw : Word16) : Resp :=
  match classify raw with
  | .normal => ⟨true, valueOf raw, .normal, some (phys32 kind (valueOf raw))⟩
  | c => ⟨true, 0x0000, c, none⟩

/-- R76. -/
def execDecT (raw : Word16) (s : State) : StepResult := answer (decodedResp .temperature raw) s

/-- R77. -/
def execDecH (raw : Word16) (s : State) : StepResult := answer (decodedResp .humidity raw) s

end Sys2Proof.Machine
end

