-- ==== Sys2Proof/Machine/Dispatch.lean ====
section
/-! DEFINITION. One arm per command, each one call of its meaning. -/

namespace Sys2Proof.Machine

def exec (i : Instr) (s : State) : Host.Outcome State Fault Refusal :=
  match i with
  | .crcInit => Sys2Proof.Machine.execCrcInit s
  | .crcAdd byte => Sys2Proof.Machine.execCrcAdd byte s
  | .crcValue => Sys2Proof.Machine.execCrcValue s
  | .cfgLoad byte => Sys2Proof.Machine.execCfgLoad byte s
  | .cfgRaw => Sys2Proof.Machine.execCfgRaw s
  | .cfgGres => Sys2Proof.Machine.execCfgGres s
  | .cfgGvdd => Sys2Proof.Machine.execCfgGvdd s
  | .cfgGhtr => Sys2Proof.Machine.execCfgGhtr s
  | .cfgGotp => Sys2Proof.Machine.execCfgGotp s
  | .cfgSres code => Sys2Proof.Machine.execCfgSres code s
  | .cfgShtr en => Sys2Proof.Machine.execCfgShtr en s
  | .cfgSotp en => Sys2Proof.Machine.execCfgSotp en s
  | .decT raw => Sys2Proof.Machine.execDecT raw s
  | .decH raw => Sys2Proof.Machine.execDecH raw s

end Sys2Proof.Machine
end

