-- ==== Sys2Proof/Machine/Step.lean ====
section
/-! DEFINITION. One step of the block: it takes what the host presents now and answers it (spec/00_scope.md R6, R7). -/

namespace Sys2Proof.Machine

/-- One step. Reset wins over a command (R95); a command is decoded first, and a word that spells no command raises
IllegalCommand (R83, R86); a command is otherwise executed as its rule says. -/
def step (s : State) : Host.Outcome State Fault Refusal :=
  match currentMove s with
  | .idle => holdState (consume s)
  | .reset => applyReset (consume s)
  | .command w =>
    match decode w with
    | .error _ => raise .illegalCommand (consume s)
    | .ok i => exec i (consume s)

/-- `s` with the command of this table word presented in the coming step: the block fetches nothing, it executes the
word the host presents (R19, R35; log entry 4). -/
def State.withFetchWord (s : State) (nbits w : Nat) : State := present (BitVec.ofNat 24 (w % 2 ^ nbits)) s

end Sys2Proof.Machine
end

