-- ==== Sys2Proof/Machine/Assembler.lean ====
section
/-! DEFINITION. What spec/30_encoding.md R43 and R44 say of writing commands: mnemonics, symbolic operands and the
pseudo-instructions, each of which expands to commands. -/

namespace Sys2Proof.Machine

/-- The mnemonic of a command (R39, R43). -/
def mnemonicOf : Instr → String
  | .crcInit => "CRC.INIT"
  | .crcAdd _ => "CRC.ADD"
  | .crcValue => "CRC.VALUE"
  | .cfgLoad _ => "CFG.LOAD"
  | .cfgRaw => "CFG.RAW"
  | .cfgGres => "CFG.GRES"
  | .cfgGvdd => "CFG.GVDD"
  | .cfgGhtr => "CFG.GHTR"
  | .cfgGotp => "CFG.GOTP"
  | .cfgSres _ => "CFG.SRES"
  | .cfgShtr _ => "CFG.SHTR"
  | .cfgSotp _ => "CFG.SOTP"
  | .decT _ => "DEC.T"
  | .decH _ => "DEC.H"

/-- An operand as written: a number, or a symbolic name (R43). -/
inductive AsmOperand where
  | number (n : Nat)
  | symbol (name : String)
  deriving DecidableEq, Repr

/-- The symbolic operands and their numbers (R43). -/
def symbolValue (mnemonic name : String) : Option Nat :=
  if mnemonic = "CFG.SRES" then
    if name = "RH12_T14" then some 0
    else if name = "RH8_T12" then some 1
    else if name = "RH10_T13" then some 2
    else if name = "RH11_T11" then some 3
    else none
  else if mnemonic = "CFG.SHTR" ∨ mnemonic = "CFG.SOTP" then
    if name = "ON" then some 1
    else if name = "OFF" then some 0
    else none
  else none

/-- The number an operand stands for under a mnemonic of the given layout; a layout without an operand takes none. -/
def operandNumber (mnemonic : String) (l : Layout) : Option AsmOperand → Option Nat
  | none => if l = .N then some 0 else none
  | some a =>
    if l = .N then none
    else match a with
      | .number n => some n
      | .symbol name => symbolValue mnemonic name

/-- The command a line `MNEMONIC operand` stands for (R43); the operand must fit the layout's used bits. -/
def assemble (mnemonic : String) (operand : Option AsmOperand) : Option Instr :=
  match opcodeTable.find? (fun r => r.mnemonic == mnemonic) with
  | none => none
  | some row =>
    match operandNumber mnemonic row.layout operand with
    | none => none
    | some n =>
      if n < 2 ^ row.layout.usedBits then (decode (row.pattern ||| BitVec.ofNat 24 n)).toOption else none

/-- `CRC.ADDALL b0, …` (R44). -/
def crcAddAll (bytes : List Byte) : List Instr := bytes.map .crcAdd

/-- `CRC.OF b0, …` (R44). -/
def crcOf (bytes : List Byte) : List Instr := [.crcInit] ++ crcAddAll bytes ++ [.crcValue]

/-- `CRC.CHECK3 hi, lo, c` (R44); the host compares the last response with zero. -/
def crcCheck3 (hi lo c : Byte) : List Instr := crcOf [hi, lo, c]

/-- The raw word `{hi, lo}`, the first-received byte on top (R27). -/
def rawWord (hi lo : Byte) : Word16 := hi ++ lo

/-- `DEC.T hi:lo` (R44). -/
def decTBytes (hi lo : Byte) : Instr := .decT (rawWord hi lo)

/-- `DEC.H hi:lo` (R44). -/
def decHBytes (hi lo : Byte) : Instr := .decH (rawWord hi lo)

end Sys2Proof.Machine
end

