-- ==== Sys2Proof/Safety.lean ====
section
/-! DEFINITION. The terms the statements use: responses and next states written out from spec/30_encoding.md R45 and
spec/60_exceptions.md R85, command sequences, reply validity, the exact conversions, and the invariant of the machine. -/

namespace Sys2Proof.Safety

open Sys2Proof.Machine

/-- The state after a command that changes no register and answers `data` (R45). -/
def afterAnswer (data : Word16) (s : State) : State := { s with resp := some ⟨true, data, .noReading, none⟩ }

/-- The state after a rejection with the given cause code (R85): only `FAULT` and the response differ. -/
def afterRejection (code : BitVec 2) (s : State) : State :=
  { s with fault := s.fault ||| code, resp := some ⟨false, code.setWidth 16, .noReading, none⟩ }

/-- Presented in any state, the word is rejected as an illegal command (R83, R85). -/
def RaisesIllegal (w : CmdWord) : Prop := ∀ s, step (present w s) = .next (afterRejection 0b01 s)

/-- The eight commands that require `CFG_VALID` (R57, R84). -/
def needsLoadedConfig : Instr → Bool
  | .cfgRaw | .cfgGres | .cfgGvdd | .cfgGhtr | .cfgGotp | .cfgSres _ | .cfgShtr _ | .cfgSotp _ => true
  | .crcInit | .crcAdd _ | .crcValue | .cfgLoad _ | .decT _ | .decH _ => false

/-- `CFG.LOAD`, the only source of `CFG` content (R68). -/
def isLoad : Instr → Bool
  | .cfgLoad _ => true
  | .crcInit | .crcAdd _ | .crcValue | .cfgRaw | .cfgGres | .cfgGvdd | .cfgGhtr | .cfgGotp | .cfgSres _ | .cfgShtr _
  | .cfgSotp _ | .decT _ | .decH _ => false

/-- The three mutators of the codec (R64 to R66). -/
def isMutator : Instr → Bool
  | .cfgSres _ | .cfgShtr _ | .cfgSotp _ => true
  | .crcInit | .crcAdd _ | .crcValue | .cfgLoad _ | .cfgRaw | .cfgGres | .cfgGvdd | .cfgGhtr | .cfgGotp
  | .decT _ | .decH _ => false

/-- The commands that write `CRC` (R13). -/
def writesCrc : Instr → Bool
  | .crcInit | .crcAdd _ => true
  | .crcValue | .cfgLoad _ | .cfgRaw | .cfgGres | .cfgGvdd | .cfgGhtr | .cfgGotp | .cfgSres _ | .cfgShtr _ | .cfgSotp _
  | .decT _ | .decH _ => false

/-- The host presents the command words one after the other, each answered before the next (R7): the state after the
last one, and the responses in order. -/
def runWords : List CmdWord → State → Option (State × List Resp)
  | [], s => some (s, [])
  | w :: ws, s =>
    match step (present w s) with
    | .next t => (runWords ws t).map fun p => (p.1, t.resp.toList ++ p.2)
    | .fault _ => none
    | .refused _ => none

/-- The cause code a response reports, zero for an executed command (R45). -/
def reportedCause (r : Resp) : BitVec 2 := if r.ok then 0 else r.data.setWidth 2

/-- `valid3` of R53. -/
def valid3 (hi lo c : Byte) : Bool := crc8 [hi, lo, c] = 0x00

/-- Byte `n` of the three bytes of a 24-bit reply `{hi, lo, c}`, from the top (R54). -/
def replyValid (w : BitVec 24) : Bool := valid3 (w.extractLsb' 16 8) (w.extractLsb' 8 8) (w.extractLsb' 0 8)

/-- The product of two polynomials over the two-element field, bit `i` the coefficient of x^i, up to x^15. -/
def polyMul (a b : BitVec 16) : BitVec 16 :=
  (List.range 16).foldl (fun acc i => if a.getLsbD i then acc ^^^ (b <<< i) else acc) 0

/-- The generator polynomial x^8+x^5+x^4+1 with all nine coefficients (R47). -/
def crcGenerator : BitVec 16 := 0x131

/-- The real number a finite binary32 pattern stands for (R74). -/
def value32 (f : Bits32) : ℚ := (units32 f : ℚ) / 2 ^ 149

/-- `T_exact` of R73, in degrees Celsius. -/
def tExact (v : Word16) : ℚ := -46.85 + 175.72 * (v.toNat : ℚ) / 65536

/-- `H_exact` of R73, in percent relative humidity. -/
def hExact (v : Word16) : ℚ := -6.0 + 125.0 * (v.toNat : ℚ) / 65536

/-- The pattern stands for a finite number: its exponent bits are not all ones. -/
def finite32 (f : Bits32) : Bool := f.extractLsb' 23 8 ≠ 0xFF

/-- The operand of the last `CFG.SRES` in a sequence, or `k` if there is none (R69). -/
def lastRes (k : BitVec 2) (is : List Instr) : BitVec 2 :=
  is.foldl (fun acc i => if let .cfgSres c := i then c else acc) k

/-- The operand of the last `CFG.SHTR` in a sequence, or `e` if there is none (R69). -/
def lastHtr (e : Bool) (is : List Instr) : Bool :=
  is.foldl (fun acc i => if let .cfgShtr c := i then c else acc) e

/-- The operand of the last `CFG.SOTP` in a sequence, or `f` if there is none (R69). -/
def lastOtp (f : Bool) (is : List Instr) : Bool :=
  is.foldl (fun acc i => if let .cfgSotp c := i then c else acc) f

/-- A response has one of the forms of R45: a rejection with one of the two cause codes, a result that is no reading, a
normal reading with its value and the physical value of one of the two kinds, or a sentinel without a value. -/
def LegalResp (r : Resp) : Prop :=
  (r.ok = false ∧ (r.data = 0x0001 ∨ r.data = 0x0002) ∧ r.cls = .noReading ∧ r.phys = none) ∨
  (r.ok = true ∧ r.cls = .noReading ∧ r.phys = none) ∨
  (r.ok = true ∧ r.cls = .normal ∧ r.data &&& 0x0003 = 0 ∧ ∃ kind, r.phys = some (phys32 kind r.data)) ∨
  (r.ok = true ∧ (r.cls = .errorLow ∨ r.cls = .errorHigh) ∧ r.data = 0x0000 ∧ r.phys = none)

/-- The invariant: the response port holds a legal response; a rejection shown there is recorded in `FAULT` (R17, R85);
and a ConfigNotLoaded rejection is shown only while nothing is loaded (R84). -/
def BlockInv (s : State) : Prop :=
  ∀ r, s.resp = some r →
    LegalResp r ∧
    s.fault ||| reportedCause r = s.fault ∧
    (r.ok = false → r.data = 0x0002 → s.cfg = .notLoaded)

end Sys2Proof.Safety
end

