-- ==== Sys2Proof/Certificates/Slice0/Obligations.lean ====
section
/-! DEFINITION. The statements for the provers. Each cites the rule of spec/ it formalises. In the statements about
commands, `exec` is the block's own step of spec/00_scope.md R6 (a state and a command give the next state and, in its
field `resp`, the response), and `step (present w s)` is the same with the command word `w` on the port. Equations
`= .next { s with … }` are completion, result and frame in one: every field not named is unchanged. -/

open Sys2Proof Sys2Proof.Machine Sys2Proof.Safety

/-! ### Encoding -/

/-- R41's two inverse laws, for every command value and every word. -/
def Obligations.DecodeEncodeRoundTrip : Prop :=
  (∀ i : Instr, decode (encode i) = .ok i) ∧ (∀ w i, decode w = .ok i → encode i = w)

/-- R39, R40: a word decodes exactly when it matches a row of the opcode map, the rows are disjoint, and the error says
which of R40's two ways of being illegal it is. -/
def Obligations.LegalWordsAreThoseOfTheTable : Prop :=
  (∀ w : CmdWord, CmdWord.legal w = true ↔ ∃ i, decode w = .ok i) ∧
  (∀ r ∈ opcodeTable, ∀ r' ∈ opcodeTable, ∀ w, r.matchesWord w = true → r'.matchesWord w = true → r = r') ∧
  (∀ w, decode w = .error .unknownOpcode ↔ ∀ r ∈ opcodeTable, r.pattern.extractLsb' 16 8 ≠ w.extractLsb' 16 8)

/-- R40's count of the legal words. -/
def Obligations.LegalWordCount : Prop := Set.ncard {w : CmdWord | CmdWord.legal w = true} = 131599

/-- Words written out in R39, R40 and spec/95_test_vectors.md section 2.5, one or more of each unit, and illegal ones. -/
def Obligations.EncodingWordsOfTheSpec : Prop :=
  decode 0b000100000000000000000000 = .ok .crcInit ∧
  decode 0b000100010000000011011100 = .ok (.crcAdd 0xDC) ∧
  decode 0b001000000000000000111010 = .ok (.cfgLoad 0x3A) ∧
  decode 0b001001100000000000000011 = .ok (.cfgSres 3) ∧
  decode 0b001001110000000000000001 = .ok (.cfgShtr true) ∧
  decode 0b001010000000000000000000 = .ok (.cfgSotp false) ∧
  decode 0b001100000100111010000101 = .ok (.decT 0x4E85) ∧
  decode 0b001100010110100000111010 = .ok (.decH 0x683A) ∧
  decode 0x110100 = .error .unusedOperandBits ∧
  decode 0x260004 = .error .unusedOperandBits ∧
  decode 0x000000 = .error .unknownOpcode ∧
  decode 0xFFFFFF = .error .unknownOpcode

/-- R43: every command is written as its mnemonic and its operand's number, a number that does not fit the layout's used
bits is refused, and the symbolic operands stand for their numbers. -/
def Obligations.AssemblerReadsEveryCommand : Prop :=
  (∀ i : Instr, assemble (mnemonicOf i) (if i.layout = .N then none else some (.number i.operand.toNat)) = some i) ∧
  (∀ r ∈ opcodeTable, ∀ n, 2 ^ r.layout.usedBits ≤ n → assemble r.mnemonic (some (.number n)) = none) ∧
  assemble "CFG.SRES" (some (.symbol "RH12_T14")) = some (.cfgSres 0) ∧
  assemble "CFG.SRES" (some (.symbol "RH8_T12")) = some (.cfgSres 1) ∧
  assemble "CFG.SRES" (some (.symbol "RH10_T13")) = some (.cfgSres 2) ∧
  assemble "CFG.SRES" (some (.symbol "RH11_T11")) = some (.cfgSres 3) ∧
  assemble "CFG.SHTR" (some (.symbol "ON")) = some (.cfgShtr true) ∧
  assemble "CFG.SHTR" (some (.symbol "OFF")) = some (.cfgShtr false) ∧
  assemble "CFG.SOTP" (some (.symbol "ON")) = some (.cfgSotp true) ∧
  assemble "CFG.SOTP" (some (.symbol "OFF")) = some (.cfgSotp false)

/-! ### Reset, the step, exceptions -/

/-- R25: the four registers after reset. `notLoaded` is `CFG_VALID = 0` with `CFG` without a value. -/
def Obligations.ResetLeavesTheStatedRegisters : Prop :=
  State.reset.crc = 0x00 ∧ cfgValid State.reset = false ∧ State.reset.cfg = .notLoaded ∧ State.reset.fault = 0b00

/-- R95: with `rst` asserted the command is ignored whatever it is, the registers take their reset values and no response
is given; and no other step clears a bit of `FAULT` or `CFG_VALID`. -/
def Obligations.ResetInputWinsOverACommand : Prop :=
  (∀ s c rest, s.input = ⟨true, c⟩ :: rest →
    step s = .next { crc := 0x00, cfg := .notLoaded, fault := 0b00, input := rest, resp := none }) ∧
  (∀ s t, (∀ c rest, s.input ≠ ⟨true, c⟩ :: rest) → step s = .next t →
    (∀ k, s.fault.getLsbD k = true → t.fault.getLsbD k = true) ∧ (cfgValid s = true → cfgValid t = true))

/-- R7: with neither a command nor reset the four registers hold and no response is produced. -/
def Obligations.NothingPresentedHoldsTheRegisters : Prop :=
  (∀ s, s.input = [] → step s = .next { s with resp := none }) ∧
  (∀ s rest, s.input = ⟨false, none⟩ :: rest → step s = .next { s with input := rest, resp := none })

/-- R6, R41: a presented word that decodes to a command is that command's `exec`, after the port sample is used up. -/
def Obligations.StepRunsTheDecodedCommand : Prop :=
  ∀ s w rest i, s.input = ⟨false, some w⟩ :: rest → decode w = .ok i → step s = exec i { s with input := rest }

/-- R6, R102, R104: no step stops, every step uses up one port sample, and a response stands exactly when a command was
presented without reset. -/
def Obligations.EveryStepAnswersANextState : Prop :=
  ∀ s, ∃ t, step s = .next t ∧ t.input = s.input.tail ∧
    (t.resp.isSome = true ↔ ∃ w rest, s.input = ⟨false, some w⟩ :: rest)

/-- R13, R6: the response is not state: no step and no command depends on the response before it. -/
def Obligations.ResponseIsNotState : Prop :=
  (∀ s r, step { s with resp := r } = step s) ∧ (∀ i s r, exec i { s with resp := r } = exec i s)

/-- R83: IllegalCommand is raised exactly by the words that do not decode, in every state; every opcode but those of DEC
can raise it, and those cannot. -/
def Obligations.IllegalCommandExactlyWhenUndecoded : Prop :=
  (∀ w s, step (present w s) = .next (afterRejection 0b01 s) ↔ ∃ e, decode w = .error e) ∧
  (∀ op ∈ [0x10#8, 0x11, 0x12, 0x20, 0x21, 0x22, 0x23, 0x24, 0x25, 0x26, 0x27, 0x28],
    ∃ x : Word16, RaisesIllegal (op ++ x)) ∧
  (∀ x : Word16, (∃ i, decode (0x30#8 ++ x) = .ok i) ∧ ∃ i, decode (0x31#8 ++ x) = .ok i)

/-- R84: ConfigNotLoaded is raised exactly by the eight commands while nothing is loaded; an executed CFG.LOAD ends that
condition, and no step without reset brings it back. -/
def Obligations.ConfigNotLoadedExactlyWhen : Prop :=
  (∀ w s, step (present w s) = .next (afterRejection 0b10 s) ↔
    (∃ i, decode w = .ok i ∧ needsLoadedConfig i = true) ∧ cfgValid s = false) ∧
  (∀ w b s, decode w = .ok (.cfgLoad b) → ∃ t, step (present w s) = .next t ∧ cfgValid t = true) ∧
  (∀ s t, (∀ c rest, s.input ≠ ⟨true, c⟩ :: rest) → step s = .next t → cfgValid s = true → cfgValid t = true)

/-- R85: a rejection ORs the cause into `FAULT`, answers the cause code, and changes nothing else: all that the host
presents later is still to come. -/
def Obligations.RejectionChangesOnlyFault : Prop :=
  (∀ w e s, decode w = .error e → step (present w s) =
    .next { s with fault := s.fault ||| 0b01, resp := some ⟨false, 0x0001, .noReading, none⟩ }) ∧
  (∀ w i s, decode w = .ok i → needsLoadedConfig i = true → s.cfg = .notLoaded → step (present w s) =
    .next { s with fault := s.fault ||| 0b10, resp := some ⟨false, 0x0002, .noReading, none⟩ })

/-- R86: a command raises at most one exception, decoding comes before the `CFG_VALID` check (so the two examples after
reset), and reset comes before both. -/
def Obligations.RejectionPriority : Prop :=
  (∀ w s t, step (present w s) = .next t → t.fault = s.fault ∨
    (t.fault = s.fault ||| 0b01 ∧ ∃ e, decode w = .error e) ∨
    (t.fault = s.fault ||| 0b10 ∧ cfgValid s = false ∧ ∃ i, decode w = .ok i)) ∧
  (∀ w e s, decode w = .error e → cfgValid s = false → step (present w s) = .next (afterRejection 0b01 s)) ∧
  step (present 0x270002 State.reset) = .next (afterRejection 0b01 State.reset) ∧
  step (present 0x270001 State.reset) = .next (afterRejection 0b10 State.reset) ∧
  (∀ w (s : State), step { s with input := ⟨true, some w⟩ :: s.input } = .next { State.reset with input := s.input })

/-- R88: over any sequence of command words, each answered, `FAULT` ends as the OR of what it was and of every cause
reported; `FAULT` is zero at the end exactly when it was zero and every response has `ok`; and a set `FAULT` bit changes no
command's effect or response. -/
def Obligations.FaultIsTheOrOfAllCauses : Prop :=
  (∀ ws s, ∃ u rs, runWords ws s = some (u, rs) ∧ rs.length = ws.length ∧
    u.fault = (rs.map reportedCause).foldl (· ||| ·) s.fault ∧
    (u.fault = 0b00 ↔ s.fault = 0b00 ∧ ∀ r ∈ rs, r.ok = true)) ∧
  (∀ i s t f, exec i s = .next t → ∃ g, exec i { s with fault := f } = .next { t with fault := g })

/-- The invariant of the machine holds at reset: no response stands there. That the port shows none is the model's choice
(log entry 3); 70_reset_and_hazards.md R95 gives a step with reset no response. -/
def Obligations.InvariantHoldsAtReset : Prop := BlockInv State.reset

/-- R45, R17, R84: every step keeps the invariant: the response port shows a legal response, a rejection shown is
recorded in `FAULT`, and ConfigNotLoaded is shown only while nothing is loaded. -/
def Obligations.EveryStepKeepsTheInvariant : Prop := ∀ s t, BlockInv s → step s = .next t → BlockInv t

/-! ### Frames and isolation -/

/-- R13, R16, R17, R20: which commands may write which register, for every command and state: `CRC` by CRC.INIT and
CRC.ADD, `CFG` by CFG.LOAD and the mutators, `CFG_VALID` by CFG.LOAD (which leaves it 1), `FAULT` by a rejection; what
the host presents later is never touched. -/
def Obligations.RegistersWrittenOnlyByTheirCommands : Prop :=
  ∀ i s t, exec i s = .next t →
    (writesCrc i = false → t.crc = s.crc) ∧
    (isLoad i = false → isMutator i = false → t.cfg = s.cfg) ∧
    (isLoad i = false → cfgValid t = cfgValid s) ∧
    (isLoad i = true → cfgValid t = true) ∧
    (needsLoadedConfig i = false ∨ cfgValid s = true → t.fault = s.fault) ∧
    (needsLoadedConfig i = true → cfgValid s = false →
      t.fault = s.fault ||| 0b10 ∧ t.cfg = s.cfg ∧ t.crc = s.crc) ∧
    t.input = s.input

/-- R96, R36: the three units share no state. What a command of one unit answers and writes depends on that unit's
register only (the unit is the high nibble of the opcode), and the decoder's answer on no register. -/
def Obligations.UnitsShareNoState : Prop :=
  ∀ i s s' t t', exec i s = .next t → exec i s' = .next t' →
    ((encode i).extractLsb' 20 4 = 0x1 → s.crc = s'.crc → t.resp = t'.resp ∧ t.crc = t'.crc) ∧
    ((encode i).extractLsb' 20 4 = 0x2 → s.cfg = s'.cfg → t.resp = t'.resp ∧ t.cfg = t'.cfg) ∧
    ((encode i).extractLsb' 20 4 = 0x3 → t.resp = t'.resp)

/-- R30: every command but CRC.ADD is idempotent: repeated with the same operand it gives the same response and leaves
the state as it then is. -/
def Obligations.CommandsButAddAreIdempotent : Prop :=
  ∀ i s t, (∀ b, i ≠ .crcAdd b) → exec i s = .next t → exec i t = .next t

/-! ### The checksum unit -/

/-- R49, CRC.INIT. -/
def Obligations.CrcInitWritesZero : Prop :=
  (∀ s, exec .crcInit s = .next (afterAnswer 0x0000 { s with crc := 0x00 })) ∧
  (∀ s : State, s.crc = 0x00 → exec .crcInit s = .next (afterAnswer 0x0000 s)) ∧
  encode .crcInit = 0x100000 ∧ decode 0x100000 = .ok .crcInit ∧
  (∀ x : Word16, x ≠ 0 → RaisesIllegal (0x10#8 ++ x))

/-- R50, CRC.ADD, with the effect R48 gives `crc8_add`. R50's remark that a zero byte changes every non-zero remainder is
not part of this statement: see `ZeroByteFixedPoints`. -/
def Obligations.CrcAddUpdatesTheRemainder : Prop :=
  (∀ b s, exec (.crcAdd b) s = .next (afterAnswer 0x0000 { s with crc := crc8Add s.crc b })) ∧
  (∀ s : State, exec (.crcAdd s.crc) s = .next (afterAnswer 0x0000 { s with crc := 0x00 })) ∧
  (∀ s : State, s.crc = 0x01 → exec (.crcAdd 0x00) s = .next (afterAnswer 0x0000 { s with crc := 0x31 })) ∧
  (∀ s : State, s.crc = 0x00 → exec (.crcAdd 0xDC) s = .next (afterAnswer 0x0000 { s with crc := 0x79 })) ∧
  (∀ b : Byte, encode (.crcAdd b) = 0x1100#16 ++ b ∧ decode (0x1100#16 ++ b) = .ok (.crcAdd b)) ∧
  (∀ x : Word16, x.extractLsb' 8 8 ≠ 0 → RaisesIllegal (0x11#8 ++ x))

/-- R48, R50: adding a zero byte leaves the remainder as it was for exactly two remainders, 0x00 and 0xEF. R50's corner
case names 0x00 only; the algorithm and the table of spec/95_test_vectors.md section 2.2 (T[0xEF] = 0xEF) give both
(log entry 8, the model's inference). -/
def Obligations.ZeroByteFixedPoints : Prop := ∀ c : Byte, crc8Add c 0x00 = c ↔ c = 0x00 ∨ c = 0xEF

/-- R51, CRC.VALUE. -/
def Obligations.CrcValueAnswersTheRemainder : Prop :=
  (∀ s : State, exec .crcValue s = .next (afterAnswer (s.crc.setWidth 16) s)) ∧
  (∀ s t : State, exec .crcInit s = .next t → exec .crcValue t = .next (afterAnswer 0x0000 t)) ∧
  exec .crcValue State.reset = .next (afterAnswer 0x0000 State.reset) ∧
  (∀ s t r, exec .crcValue s = .next t → t.resp = some r → r.data.extractLsb' 8 8 = 0x00 ∧ exec .crcValue t = .next t) ∧
  encode .crcValue = 0x120000 ∧ decode 0x120000 = .ok .crcValue ∧
  (∀ x : Word16, x ≠ 0 → RaisesIllegal (0x12#8 ++ x))

/-- R48: the byte update and the facts the spec derives from it. -/
def Obligations.CrcAlgorithm : Prop :=
  (∀ c b : Byte, crc8Add c b =
    (fun r : Byte => if r.getLsbD 7 then (r <<< 1) ^^^ 0x31#8 else r <<< 1)^[8] (c ^^^ b)) ∧
  (∀ c b : Byte, crc8Add c b = crc8Add (c ^^^ b) 0x00 ∧ crc8Add c b = crc8Add 0x00 (c ^^^ b)) ∧
  (∀ x y : Byte, crc8Add 0x00 (x ^^^ y) = crc8Add 0x00 x ^^^ crc8Add 0x00 y) ∧
  (∀ c : Byte, Function.Bijective (crc8Add c) ∧ Function.Bijective fun b => crc8Add b c) ∧
  (∀ c : Byte, crc8Add c c = 0x00) ∧
  crc8Add 0x00 0x00 = 0x00 ∧ crc8Add 0x00 0x01 = 0x31 ∧ crc8Add 0x00 0x80 = 0x7A

/-- R47: what one byte update computes is the remainder of x^8 times the byte on division by x^8+x^5+x^4+1: the quotient
`q` witnesses the division, and the remainder has degree below 8. -/
def Obligations.CrcIsThePolynomialRemainder : Prop :=
  ∀ c b : Byte, ∃ q : Byte,
    (c ^^^ b).setWidth 16 <<< 8 = polyMul (q.setWidth 16) crcGenerator ^^^ (crc8Add c b).setWidth 16

/-- R52: a sequence of CRC.ADD commands folds `crc8_add` over its bytes in order, for every sequence and every starting
remainder; splitting a sequence changes nothing; the order of bytes matters. -/
def Obligations.CrcFoldLaw : Prop :=
  (∀ bs s, ∃ u rs, runWords ((crcAddAll bs).map encode) s = some (u, rs) ∧
    u.crc = bs.foldl crc8Add s.crc ∧ u.crc = crc8Fold s.crc bs ∧
    u.cfg = s.cfg ∧ u.fault = s.fault ∧ u.input = s.input) ∧
  (∀ c bs bs', crc8Fold c (bs ++ bs') = crc8Fold (crc8Fold c bs) bs') ∧
  (∀ bs, crc8 bs = crc8Fold 0x00 bs) ∧
  crc8 [0x68, 0x3A] = 0x7C ∧ crc8 [0x3A, 0x68] = 0x5E

/-- R53: a reply is valid exactly when its third byte is the checksum of the first two, and CRC.CHECK3 answers zero in
its last response exactly then; a non-zero answer is no exception. -/
def Obligations.ReplyValidity : Prop :=
  (∀ hi lo c, valid3 hi lo c = true ↔ c = crc8 [hi, lo]) ∧
  (∀ hi lo c s, ∃ u rs r, runWords ((crcCheck3 hi lo c).map encode) s = some (u, rs ++ [r]) ∧
    (∀ q ∈ rs ++ [r], q.ok = true) ∧ (r.data = 0x0000 ↔ valid3 hi lo c = true) ∧
    u.fault = s.fault ∧ u.cfg = s.cfg)

/-- R54: flipping any one bit of a valid reply makes it invalid. -/
def Obligations.SingleBitErrorsAreDetected : Prop :=
  ∀ (hi lo : Byte) (k : Nat), k < 24 → replyValid ((hi ++ lo ++ crc8 [hi, lo] : BitVec 24) ^^^ (1#24 <<< k)) = false

/-! ### The configuration codec -/

/-- R58, CFG.LOAD. -/
def Obligations.CfgLoadTakesTheByte : Prop :=
  (∀ b s, exec (.cfgLoad b) s = .next (afterAnswer 0x0000 { s with cfg := .loaded b })) ∧
  (∀ i s t b, isLoad i = false → s.cfg = .loaded b → exec i s = .next t →
    ∃ b', t.cfg = .loaded b' ∧ b'.extractLsb' 3 4 = b.extractLsb' 3 4) ∧
  (∀ b : Byte, encode (.cfgLoad b) = 0x2000#16 ++ b ∧ decode (0x2000#16 ++ b) = .ok (.cfgLoad b)) ∧
  (∀ x : Word16, x.extractLsb' 8 8 ≠ 0 → RaisesIllegal (0x20#8 ++ x))

/-- R59, CFG.RAW. -/
def Obligations.CfgRawAnswersTheByte : Prop :=
  (∀ s b, s.cfg = .loaded b → exec .cfgRaw s = .next (afterAnswer (b.setWidth 16) s)) ∧
  (∀ s t b, exec (.cfgLoad b) s = .next t → exec .cfgRaw t = .next (afterAnswer (b.setWidth 16) t)) ∧
  (∀ s, s.cfg = .notLoaded → exec .cfgRaw s = .next (afterRejection 0b10 s)) ∧
  encode .cfgRaw = 0x210000 ∧ decode 0x210000 = .ok .cfgRaw ∧
  (∀ x : Word16, x ≠ 0 → RaisesIllegal (0x21#8 ++ x))

/-- R60, CFG.GRES: bit 7 is the more significant bit of the code. -/
def Obligations.CfgGresAnswersTheResolution : Prop :=
  (∀ s b, s.cfg = .loaded b → exec .cfgGres s =
    .next (afterAnswer ((BitVec.ofBool (b.getLsbD 7) ++ BitVec.ofBool (b.getLsbD 0)).setWidth 16) s)) ∧
  (∀ s, s.cfg = .notLoaded → exec .cfgGres s = .next (afterRejection 0b10 s)) ∧
  resolutionOfCode 0b00 = .rh12T14 ∧ resolutionOfCode 0b01 = .rh8T12 ∧ resolutionOfCode 0b10 = .rh10T13 ∧
  resolutionOfCode 0b11 = .rh11T11 ∧
  encode .cfgGres = 0x220000 ∧ decode 0x220000 = .ok .cfgGres ∧
  (∀ x : Word16, x ≠ 0 → RaisesIllegal (0x22#8 ++ x))

/-- R61, CFG.GVDD: bit 6 of the byte last loaded, which no word but a CFG.LOAD changes. -/
def Obligations.CfgGvddAnswersTheSupplyVoltage : Prop :=
  (∀ s b, s.cfg = .loaded b → exec .cfgGvdd s = .next (afterAnswer ((BitVec.ofBool (b.getLsbD 6)).setWidth 16) s)) ∧
  (∀ s, s.cfg = .notLoaded → exec .cfgGvdd s = .next (afterRejection 0b10 s)) ∧
  supplyVoltageOfCode 0 = .high ∧ supplyVoltageOfCode 1 = .low ∧
  (∀ s t b, exec (.cfgLoad b) s = .next t →
    exec .cfgGvdd t = .next (afterAnswer ((BitVec.ofBool (b.getLsbD 6)).setWidth 16) t)) ∧
  (∀ w s t b, s.cfg = .loaded b → (∀ x, decode w ≠ .ok (.cfgLoad x)) → step (present w s) = .next t →
    ∃ b', t.cfg = .loaded b' ∧ b'.getLsbD 6 = b.getLsbD 6) ∧
  encode .cfgGvdd = 0x230000 ∧ decode 0x230000 = .ok .cfgGvdd ∧
  (∀ x : Word16, x ≠ 0 → RaisesIllegal (0x23#8 ++ x))

/-- R62, CFG.GHTR. -/
def Obligations.CfgGhtrAnswersTheHeater : Prop :=
  (∀ s b, s.cfg = .loaded b → exec .cfgGhtr s = .next (afterAnswer ((BitVec.ofBool (b.getLsbD 2)).setWidth 16) s)) ∧
  (∀ s, s.cfg = .notLoaded → exec .cfgGhtr s = .next (afterRejection 0b10 s)) ∧
  encode .cfgGhtr = 0x240000 ∧ decode 0x240000 = .ok .cfgGhtr ∧
  (∀ x : Word16, x ≠ 0 → RaisesIllegal (0x24#8 ++ x))

/-- R63, CFG.GOTP: the answer is the inverse of register bit 1 (90_conflicts.md C1). -/
def Obligations.CfgGotpAnswersAutoReload : Prop :=
  (∀ s b, s.cfg = .loaded b → exec .cfgGotp s = .next (afterAnswer ((BitVec.ofBool (!b.getLsbD 1)).setWidth 16) s)) ∧
  (∀ s, s.cfg = .notLoaded → exec .cfgGotp s = .next (afterRejection 0b10 s)) ∧
  (∀ s : State, s.cfg = .loaded 0x3A → exec .cfgGotp s = .next (afterAnswer 0x0000 s)) ∧
  (∀ s : State, s.cfg = .loaded 0xBD → exec .cfgGotp s = .next (afterAnswer 0x0001 s)) ∧
  encode .cfgGotp = 0x250000 ∧ decode 0x250000 = .ok .cfgGotp ∧
  (∀ x : Word16, x ≠ 0 → RaisesIllegal (0x25#8 ++ x))

/-- R64, CFG.SRES, in the masked form of its pseudocode. -/
def Obligations.CfgSresSetsTheResolution : Prop :=
  (∀ (code : BitVec 2) s b, s.cfg = .loaded b → exec (.cfgSres code) s = .next (afterAnswer 0x0000 { s with
    cfg := .loaded ((b &&& 0x7E#8) ||| ((code.extractLsb' 1 1).setWidth 8 <<< 7) ||| (code.extractLsb' 0 1).setWidth 8) })) ∧
  (∀ s b, s.cfg = .loaded b →
    exec (.cfgSres (BitVec.ofBool (b.getLsbD 7) ++ BitVec.ofBool (b.getLsbD 0))) s = .next (afterAnswer 0x0000 s)) ∧
  (∀ code s, s.cfg = .notLoaded → exec (.cfgSres code) s = .next (afterRejection 0b10 s)) ∧
  (∀ code : BitVec 2, encode (.cfgSres code) = 0x260000#24 ||| code.setWidth 24 ∧
    decode (0x260000#24 ||| code.setWidth 24) = .ok (.cfgSres code)) ∧
  (∀ x : Word16, x.extractLsb' 2 14 ≠ 0 → RaisesIllegal (0x26#8 ++ x))

/-- R65, CFG.SHTR, in the masked form of its pseudocode. -/
def Obligations.CfgShtrSetsTheHeater : Prop :=
  (∀ en s b, s.cfg = .loaded b → exec (.cfgShtr en) s = .next (afterAnswer 0x0000 { s with
    cfg := .loaded ((b &&& 0xFB#8) ||| ((BitVec.ofBool en).setWidth 8 <<< 2)) })) ∧
  (∀ en s t, s.cfg ≠ .notLoaded → exec (.cfgShtr en) s = .next t → exec (.cfgShtr en) t = .next t) ∧
  (∀ en s, s.cfg = .notLoaded → exec (.cfgShtr en) s = .next (afterRejection 0b10 s)) ∧
  (∀ en, encode (.cfgShtr en) = 0x270000#24 ||| (BitVec.ofBool en).setWidth 24 ∧
    decode (0x270000#24 ||| (BitVec.ofBool en).setWidth 24) = .ok (.cfgShtr en)) ∧
  (∀ x : Word16, x.extractLsb' 1 15 ≠ 0 → RaisesIllegal (0x27#8 ++ x))

/-- R66, CFG.SOTP, in the masked form of its pseudocode: the register bit is the inverse of the operand
(90_conflicts.md C1). -/
def Obligations.CfgSotpSetsAutoReload : Prop :=
  (∀ en s b, s.cfg = .loaded b → exec (.cfgSotp en) s = .next (afterAnswer 0x0000 { s with
    cfg := .loaded ((b &&& 0xFD#8) ||| ((BitVec.ofBool (!en)).setWidth 8 <<< 1)) })) ∧
  (∀ en s t, s.cfg ≠ .notLoaded → exec (.cfgSotp en) s = .next t → exec (.cfgSotp en) t = .next t) ∧
  (∀ s : State, s.cfg = .loaded 0xBF →
    exec (.cfgSotp true) s = .next (afterAnswer 0x0000 { s with cfg := .loaded 0xBD }) ∧
    exec (.cfgSotp false) s = .next (afterAnswer 0x0000 s)) ∧
  (∀ en s, s.cfg = .notLoaded → exec (.cfgSotp en) s = .next (afterRejection 0b10 s)) ∧
  (∀ en, encode (.cfgSotp en) = 0x280000#24 ||| (BitVec.ofBool en).setWidth 24 ∧
    decode (0x280000#24 ||| (BitVec.ofBool en).setWidth 24) = .ok (.cfgSotp en)) ∧
  (∀ x : Word16, x.extractLsb' 1 15 ≠ 0 → RaisesIllegal (0x28#8 ++ x))

/-- R67: no word but a CFG.LOAD changes `CFG[6:3]`; CFG.SRES changes at most bits 7 and 0, CFG.SHTR bit 2, CFG.SOTP
bit 1, and every other word that is no CFG.LOAD, rejected words among them, no bit. -/
def Obligations.ReservedBitsArePreserved : Prop :=
  (∀ w s t b, s.cfg = .loaded b → (∀ x, decode w ≠ .ok (.cfgLoad x)) → step (present w s) = .next t →
    ∃ b', t.cfg = .loaded b' ∧ b'.extractLsb' 3 4 = b.extractLsb' 3 4 ∧
      ((∃ c, decode w = .ok (.cfgSres c)) → b' &&& 0x7E = b &&& 0x7E) ∧
      ((∃ e, decode w = .ok (.cfgShtr e)) → b' &&& 0xFB = b &&& 0xFB) ∧
      ((∃ e, decode w = .ok (.cfgSotp e)) → b' &&& 0xFD = b &&& 0xFD) ∧
      ((∀ i, decode w = .ok i → isMutator i = false) → b' = b)) ∧
  (∀ w s t r, step (present w s) = .next t → t.resp = some r → r.ok = false → t.cfg = s.cfg)

/-- R69: get-after-set, independence of the fields, idempotence, commutation of mutators of different fields, and the
last of two mutators of one field winning. -/
def Obligations.CodecLaws : Prop :=
  (∀ k s b, s.cfg = .loaded b →
    ∃ t, exec (.cfgSres k) s = .next t ∧ exec .cfgGres t = .next (afterAnswer (k.setWidth 16) t)) ∧
  (∀ e s b, s.cfg = .loaded b →
    ∃ t, exec (.cfgShtr e) s = .next t ∧ exec .cfgGhtr t = .next (afterAnswer ((BitVec.ofBool e).setWidth 16) t)) ∧
  (∀ e s b, s.cfg = .loaded b →
    ∃ t, exec (.cfgSotp e) s = .next t ∧ exec .cfgGotp t = .next (afterAnswer ((BitVec.ofBool e).setWidth 16) t)) ∧
  (∀ m a s t u b, s.cfg = .loaded b →
    ((∃ k, m = .cfgSres k) ∧ a ∈ [Instr.cfgGvdd, .cfgGhtr, .cfgGotp]) ∨
      ((∃ e, m = .cfgShtr e) ∧ a ∈ [Instr.cfgGres, .cfgGvdd, .cfgGotp]) ∨
      ((∃ e, m = .cfgSotp e) ∧ a ∈ [Instr.cfgGres, .cfgGvdd, .cfgGhtr]) →
    exec m s = .next t → exec a s = .next u → ∃ v, exec a t = .next v ∧ v.resp = u.resp) ∧
  (∀ m s t b, s.cfg = .loaded b → isMutator m = true → exec m s = .next t → exec m t = .next t) ∧
  (∀ m n s t t' u b, s.cfg = .loaded b → isMutator m = true → isMutator n = true → mnemonicOf m ≠ mnemonicOf n →
    exec m s = .next t → exec n t = .next u → exec n s = .next t' → exec m t' = .next u) ∧
  (∀ m n s t b, s.cfg = .loaded b → isMutator m = true → isMutator n = true → mnemonicOf m = mnemonicOf n →
    exec m s = .next t → exec n t = exec n s)

/-- R69's closed form, for every sequence of mutators after the byte `b`: what is not mutated is taken from `b`. -/
def Obligations.MutatorSequenceClosedForm : Prop :=
  ∀ ms s b, (∀ m ∈ ms, isMutator m = true) → s.cfg = .loaded b →
    ∃ u rs, runWords (ms.map encode) s = some (u, rs) ∧ u.crc = s.crc ∧ u.fault = s.fault ∧ u.input = s.input ∧
      let k := lastRes (BitVec.ofBool (b.getLsbD 7) ++ BitVec.ofBool (b.getLsbD 0)) ms
      let e := lastHtr (b.getLsbD 2) ms
      let f := lastOtp (!b.getLsbD 1) ms
      u.cfg = .loaded ((b &&& 0x78#8) ||| ((k.extractLsb' 1 1).setWidth 8 <<< 7) ||| ((BitVec.ofBool e).setWidth 8 <<< 2) |||
        ((BitVec.ofBool (!f)).setWidth 8 <<< 1) ||| (k.extractLsb' 0 1).setWidth 8)

/-- R68: from a loaded byte, after any sequence of words that holds no CFG.LOAD (rejected words too), CFG.RAW answers a
byte that differs from the loaded one in bits 7, 2, 1 and 0 only. -/
def Obligations.RawKeepsTheLoadedReadOnlyBits : Prop :=
  ∀ ws s b, s.cfg = .loaded b → (∀ w ∈ ws, ∀ x, decode w ≠ .ok (.cfgLoad x)) →
    ∃ u rs b', runWords ws s = some (u, rs) ∧ exec .cfgRaw u = .next (afterAnswer (b'.setWidth 16) u) ∧
      b' &&& 0x78 = b &&& 0x78

/-! ### The reading decoder -/

/-- R71: the class of every raw word; the two sentinels are exactly one word each, tested before the status bits are
cleared. -/
def Obligations.ClassificationOfRawWords : Prop :=
  (∀ raw : Word16, classify raw = if raw = 0x0000 then .errorLow else if raw = 0xFFFF then .errorHigh else .normal) ∧
  (∀ raw : Word16, (classify raw = .errorLow ↔ raw = 0x0000) ∧ (classify raw = .errorHigh ↔ raw = 0xFFFF)) ∧
  (∀ raw ∈ [0x0001#16, 0x0002, 0x0003], classify raw = .normal ∧ valueOf raw = 0x0000) ∧
  (∀ raw ∈ [0xFFFC#16, 0xFFFD, 0xFFFE], classify raw = .normal ∧ valueOf raw = 0xFFFC) ∧
  (∀ s raw, ∃ t u r r', exec (.decT raw) s = .next t ∧ exec (.decH raw) s = .next u ∧
    t.resp = some r ∧ u.resp = some r' ∧ r.cls = classify raw ∧ r'.cls = classify raw ∧
    classCode .errorLow = 0b10 ∧ classCode .errorHigh = 0b11 ∧ classCode .normal = 0b01)

/-- R72: the value keeps bits 15 to 2 of the word in place and clears bits 1 and 0, so it is a multiple of 4, one of
16 384, at most 0xFFFC. -/
def Obligations.ValueOfANormalReading : Prop :=
  (∀ raw : Word16, valueOf raw = raw &&& 0xFFFC ∧ (valueOf raw).extractLsb' 2 14 = raw.extractLsb' 2 14 ∧
    (valueOf raw).extractLsb' 0 2 = 0b00 ∧ (valueOf raw).toNat % 4 = 0 ∧ (valueOf raw).toNat ≤ 0xFFFC) ∧
  Set.ncard (Set.range valueOf) = 16384

/-- R76, DEC.T, with its corner cases and its example. -/
def Obligations.DecTDecodesATemperature : Prop :=
  (∀ (raw : Word16) s, exec (.decT raw) s = .next { s with resp := some (
     if raw = 0x0000 then ⟨true, 0x0000, .errorLow, none⟩
     else if raw = 0xFFFF then ⟨true, 0x0000, .errorHigh, none⟩
     else ⟨true, raw &&& 0xFFFC, .normal, some (phys32 .temperature (raw &&& 0xFFFC))⟩) }) ∧
  (∀ raw : Word16, encode (.decT raw) = 0x30#8 ++ raw ∧ decode (0x30#8 ++ raw) = .ok (.decT raw)) ∧
  phys32 .temperature 0x0000 = 0xC23B6666 ∧ phys32 .temperature 0xFFFC = 0x4300DBFA ∧
  (∀ k j s, 1 ≤ k → k ≤ 16382 → j < 4 →
    exec (.decT (BitVec.ofNat 16 (4 * k + j))) s = exec (.decT (BitVec.ofNat 16 (4 * k))) s) ∧
  (∀ s : State, exec (.decT 0x4E85) s = .next { s with resp := some ⟨true, 0x4E84, .normal, some 0x40E16550⟩ })

/-- R77, DEC.H, with its corner cases and its example. -/
def Obligations.DecHDecodesAHumidity : Prop :=
  (∀ (raw : Word16) s, exec (.decH raw) s = .next { s with resp := some (
     if raw = 0x0000 then ⟨true, 0x0000, .errorLow, none⟩
     else if raw = 0xFFFF then ⟨true, 0x0000, .errorHigh, none⟩
     else ⟨true, raw &&& 0xFFFC, .normal, some (phys32 .humidity (raw &&& 0xFFFC))⟩) }) ∧
  (∀ raw : Word16, encode (.decH raw) = 0x31#8 ++ raw ∧ decode (0x31#8 ++ raw) = .ok (.decH raw)) ∧
  phys32 .humidity 0x0000 = 0xC0C00000 ∧ phys32 .humidity 0xFFFC = 0x42EDFC18 ∧
  (∀ k j s, 1 ≤ k → k ≤ 16382 → j < 4 →
    exec (.decH (BitVec.ofNat 16 (4 * k + j))) s = exec (.decH (BitVec.ofNat 16 (4 * k))) s) ∧
  (∀ s : State, exec (.decH 0x683A) s = .next { s with resp := some ⟨true, 0x6838, .normal, some 0x42338D60⟩ })

/-- R78: a sentinel's response carries fillers only, the reading it stands for has no value, and the word can be read
back from the class. -/
def Obligations.SentinelResponses : Prop :=
  ∀ (raw : Word16) s t r, exec (.decT raw) s = .next t ∨ exec (.decH raw) s = .next t → t.resp = some r →
    (r.cls = .errorLow ∨ r.cls = .errorHigh →
      r.ok = true ∧ r.data = 0x0000 ∧ physValid r = false ∧ physWires r = 0x00000000) ∧
    (r.cls = .errorLow → raw = 0x0000 ∧ readingOf r = some .errorLow) ∧
    (r.cls = .errorHigh → raw = 0xFFFF ∧ readingOf r = some .errorHigh)

/-- R79: DEC.T and DEC.H write no register and answer a function of the command word alone, and whatever command follows
has the effect it would have had without them. -/
def Obligations.DecoderIsStateless : Prop :=
  ∃ f : Instr → Resp, ∀ raw, ∀ d ∈ [Instr.decT raw, Instr.decH raw],
    (∀ s, exec d s = .next { s with resp := some (f d) }) ∧
    (∀ s t i, exec d s = .next t → exec i t = exec i s)

/-- R10, R74: `fl32` gives the binary32 number nearest to the rational, and of two equally near the one whose last
fraction bit is 0, wherever it does not overflow. -/
def Obligations.RoundingIsToNearestEven : Prop :=
  ∀ (n : Int) (d : Nat) (y : Bits32), 0 < d → finite32 (fl32 n d) = true → finite32 y = true →
    |value32 (fl32 n d) - (n : ℚ) / d| ≤ |value32 y - (n : ℚ) / d| ∧
    (|value32 (fl32 n d) - (n : ℚ) / d| = |value32 y - (n : ℚ) / d| → value32 y ≠ value32 (fl32 n d) →
      (fl32 n d).getLsbD 0 = false)

/-- R74's constants: the patterns, that they are the decimal constants rounded once, and their exact values. -/
def Obligations.BinaryConstants : Prop :=
  tScale32 = 0x432FB852 ∧ tScale32 = fl32 17572 100 ∧ value32 tScale32 = 5757993 / 32768 ∧
  tOffset32 = 0xC23B6666 ∧ tOffset32 = fl32 (-4685) 100 ∧ value32 tOffset32 = -6140723 / 131072 ∧
  hScale32 = 0x42FA0000 ∧ value32 hScale32 = 125 ∧ hOffset32 = 0xC0C00000 ∧ value32 hOffset32 = -6

/-- R74: the quotient `q = v / 65536` is computed without rounding error, for every word. -/
def Obligations.FractionIsExact : Prop := ∀ v : Word16, value32 (fraction32 v) = (v.toNat : ℚ) / 65536

/-- R73, R81 (a): humidity is the exact rational for every value. -/
def Obligations.HumidityIsExact : Prop :=
  ∀ raw : Word16, value32 (phys32 .humidity (valueOf raw)) = hExact (valueOf raw)

/-- R81 (b): temperature is within 7/409600 of the exact rational, and the bound is reached at 0xFF04. -/
def Obligations.TemperatureErrorBound : Prop :=
  (∀ raw : Word16, |value32 (phys32 .temperature (valueOf raw)) - tExact (valueOf raw)| ≤ 7 / 409600) ∧
  |value32 (phys32 .temperature 0xFF04) - tExact 0xFF04| = 7 / 409600

/-- R81 (c): both conversions are strictly increasing in the value. -/
def Obligations.ConversionIsStrictlyIncreasing : Prop :=
  ∀ (kind : MeasurementKind) (raw raw' : Word16), (valueOf raw).toNat < (valueOf raw').toNat →
    value32 (phys32 kind (valueOf raw)) < value32 (phys32 kind (valueOf raw'))

/-- R75: nothing is clamped: the ranges of both conversions are reached at both ends, humidity is negative up to 0x0C48
and above 100 from 0xD918, temperature is negative up to 0x4440 and positive from 0x4444, and no result is an infinity, a
NaN, a zero or a subnormal number. -/
def Obligations.PhysicalRange : Prop :=
  ∀ raw : Word16,
    (value32 0xC23B6666 ≤ value32 (phys32 .temperature (valueOf raw)) ∧
      value32 (phys32 .temperature (valueOf raw)) ≤ value32 0x4300DBFA) ∧
    (-6 ≤ value32 (phys32 .humidity (valueOf raw)) ∧
      value32 (phys32 .humidity (valueOf raw)) ≤ value32 0x42EDFC18) ∧
    (value32 (phys32 .humidity (valueOf raw)) < 0 ↔ (valueOf raw).toNat ≤ 0x0C48) ∧
    (100 < value32 (phys32 .humidity (valueOf raw)) ↔ 0xD918 ≤ (valueOf raw).toNat) ∧
    (value32 (phys32 .temperature (valueOf raw)) < 0 ↔ (valueOf raw).toNat ≤ 0x4440) ∧
    (0 < value32 (phys32 .temperature (valueOf raw)) ↔ 0x4444 ≤ (valueOf raw).toNat) ∧
    (∀ kind, finite32 (phys32 kind (valueOf raw)) = true ∧ (phys32 kind (valueOf raw)).extractLsb' 23 8 ≠ 0)

/-- The source's two conversion examples (R74, spec/95_test_vectors.md section 1.4): the physical values lie in the
intervals it requires. -/
def Obligations.SourceConversionIntervals : Prop :=
  (7.04 ≤ value32 (phys32 .temperature 0x4E84) ∧ value32 (phys32 .temperature 0x4E84) < 7.05) ∧
  (44.8 ≤ value32 (phys32 .humidity 0x6838) ∧ value32 (phys32 .humidity 0x6838) < 44.9)
end

