-- ==== Sys2Proof/Laws/State.lean ====
section
/-! SUPPORT. One lemma per field per update of the state. -/

namespace Sys2Proof.Machine

variable (s : State) (b : Byte) (w : CmdWord)

@[simp] theorem writeCrc_crc : (writeCrc b s).crc = b := rfl
@[simp] theorem writeCrc_cfg : (writeCrc b s).cfg = s.cfg := rfl
@[simp] theorem writeCrc_fault : (writeCrc b s).fault = s.fault := rfl
@[simp] theorem writeCrc_input : (writeCrc b s).input = s.input := rfl
@[simp] theorem writeCrc_resp : (writeCrc b s).resp = s.resp := rfl

@[simp] theorem writeCfg_crc : (writeCfg b s).crc = s.crc := rfl
@[simp] theorem writeCfg_cfg : (writeCfg b s).cfg = .loaded b := rfl
@[simp] theorem writeCfg_fault : (writeCfg b s).fault = s.fault := rfl
@[simp] theorem writeCfg_input : (writeCfg b s).input = s.input := rfl
@[simp] theorem writeCfg_resp : (writeCfg b s).resp = s.resp := rfl

@[simp] theorem consume_crc : (consume s).crc = s.crc := rfl
@[simp] theorem consume_cfg : (consume s).cfg = s.cfg := rfl
@[simp] theorem consume_fault : (consume s).fault = s.fault := rfl
@[simp] theorem consume_input : (consume s).input = s.input.tail := rfl
@[simp] theorem consume_resp : (consume s).resp = s.resp := rfl

@[simp] theorem present_crc : (present w s).crc = s.crc := rfl
@[simp] theorem present_cfg : (present w s).cfg = s.cfg := rfl
@[simp] theorem present_fault : (present w s).fault = s.fault := rfl
@[simp] theorem present_input : (present w s).input = ⟨false, some w⟩ :: s.input := rfl
@[simp] theorem present_resp : (present w s).resp = s.resp := rfl

@[simp] theorem consume_present : consume (present w s) = s := rfl
@[simp] theorem currentMove_present : currentMove (present w s) = .command w := rfl

@[simp] theorem cfgValid_of_loaded (h : s.cfg = .loaded b) : cfgValid s = true := by simp [cfgValid, h]
@[simp] theorem cfgValid_of_notLoaded (h : s.cfg = .notLoaded) : cfgValid s = false := by simp [cfgValid, h]

end Sys2Proof.Machine
end

