-- ==== Sys2Proof/Laws/Binary32.lean ====
section
/-! SUPPORT. Rounding to an integer, ties to even (spec/42_reading_decoder.md R74). The kernel
evaluates `phys32` on one word in a few milliseconds, if a single theorem asks for about a hundred words at most. -/

namespace Sys2Proof.Machine

/-- The rounded quotient is within half a unit of the exact one. -/
theorem roundHalfEven_near (n d : Nat) (hd : 0 < d) :
    2 * n ≤ 2 * (roundHalfEven n d * d) + d ∧ 2 * (roundHalfEven n d * d) ≤ 2 * n + d := by
  have h := Nat.div_add_mod n d
  rw [Nat.mul_comm] at h
  unfold roundHalfEven
  have hr := Nat.mod_lt n hd
  dsimp only
  split
  · constructor <;> omega
  · split
    · rw [Nat.add_mul, Nat.one_mul]; constructor <;> omega
    · rcases Nat.mod_two_eq_zero_or_one (n / d) with h2 | h2 <;> rw [h2]
      · rw [Nat.add_zero]; constructor <;> omega
      · rw [Nat.add_mul, Nat.one_mul]; constructor <;> omega

/-- An exact quotient is not changed by rounding. -/
theorem roundHalfEven_exact (q d : Nat) (hd : 0 < d) : roundHalfEven (q * d) d = q := by
  simp [roundHalfEven, hd]

end Sys2Proof.Machine
end

