-- ==== Sys2Proof/Laws/Ops.lean ====
section
/-! SUPPORT. What each shared operation can do, said once. -/

namespace Sys2Proof.Machine

/-- A loaded byte satisfies the common precondition of the codec. -/
theorem requireCfg_loaded {s : State} {b : Byte} (h : s.cfg = .loaded b) (k : Byte → StepResult) :
    requireCfg s k = k b := by simp [requireCfg, h]

/-- Without a loaded byte the precondition raises ConfigNotLoaded. -/
theorem requireCfg_notLoaded {s : State} (h : s.cfg = .notLoaded) (k : Byte → StepResult) :
    requireCfg s k = raise .configNotLoaded s := by simp [requireCfg, h]

/-- If an answer is a next state, it is the given one with the response placed. -/
theorem answer_next {r : Resp} {s t : State} (h : answer r s = .next t) : t = { s with resp := some r } :=
  (Host.Outcome.next.inj h).symm

/-- Taking an exception always gives a next state that differs in `FAULT` and the response only. -/
theorem raise_next {c : ExceptionCause} {s t : State} (h : raise c s = .next t) :
    t.crc = s.crc ∧ t.cfg = s.cfg ∧ t.input = s.input ∧ t.fault = recordFault c s.fault ∧
      t.resp = some (rejectedResp c) := by
  obtain rfl := answer_next h; exact ⟨rfl, rfl, rfl, rfl, rfl⟩

/-- Holding the state changes no register. -/
theorem holdState_next {s t : State} (h : holdState s = .next t) : t = { s with resp := none } :=
  (Host.Outcome.next.inj h).symm

/-- Reset puts every register into its reset value. -/
theorem applyReset_next {s t : State} (h : applyReset s = .next t) : t = { State.reset with input := s.input } :=
  (Host.Outcome.next.inj h).symm

/-- The common precondition either raises ConfigNotLoaded or goes on with the loaded byte. -/
theorem requireCfg_next {s t : State} {k : Byte → StepResult} (h : requireCfg s k = .next t) :
    (s.cfg = .notLoaded ∧ raise .configNotLoaded s = .next t) ∨ ∃ b, s.cfg = .loaded b ∧ k b = .next t := by
  cases hc : s.cfg with
  | notLoaded => exact .inl ⟨rfl, by rwa [requireCfg_notLoaded hc] at h⟩
  | loaded b => exact .inr ⟨b, rfl, by rwa [requireCfg_loaded hc] at h⟩

end Sys2Proof.Machine
end

