-- ==== Sys2Proof/Laws/Step.lean ====
section
/-! SUPPORT. The step by the host's move. -/

namespace Sys2Proof.Machine

theorem step_of_idle {s : State} (h : currentMove s = .idle) : step s = holdState (consume s) := by simp [step, h]

theorem step_of_reset {s : State} (h : currentMove s = .reset) : step s = applyReset (consume s) := by simp [step, h]

theorem step_of_command {s : State} {w : CmdWord} (h : currentMove s = .command w) :
    step s = match decode w with
      | .error _ => raise .illegalCommand (consume s)
      | .ok i => exec i (consume s) := by simp only [step, h] <;> rfl

/-- What one step can do. -/
theorem step_next_cases {s t : State} (h : step s = .next t) :
    (currentMove s = .idle ∧ t = { consume s with resp := none }) ∨
    (currentMove s = .reset ∧ t = { State.reset with input := s.input.tail }) ∨
    (∃ w e, currentMove s = .command w ∧ decode w = .error e ∧ raise .illegalCommand (consume s) = .next t) ∨
    (∃ w i, currentMove s = .command w ∧ decode w = .ok i ∧ exec i (consume s) = .next t) := by
  cases hm : currentMove s with
  | idle => exact .inl ⟨rfl, holdState_next (step_of_idle hm ▸ h)⟩
  | reset => exact .inr (.inl ⟨rfl, applyReset_next (step_of_reset hm ▸ h)⟩)
  | command w =>
    rw [step_of_command hm] at h
    cases hd : decode w with
    | error e => rw [hd] at h; exact .inr (.inr (.inl ⟨w, e, rfl, hd, h⟩))
    | ok i => rw [hd] at h; exact .inr (.inr (.inr ⟨w, i, rfl, hd, h⟩))

end Sys2Proof.Machine
end

