-- ==== Sys2Proof/Laws/Checksum.lean ====
section
/-! SUPPORT. Small laws of the checksum functions (spec/40_checksum.md R48, R52). -/

namespace Sys2Proof.Machine

theorem crcShift_xor : ∀ x y : Byte, crcShift (x ^^^ y) = crcShift x ^^^ crcShift y := by
  intro x y
  simp only [crcShift, BitVec.getLsbD_xor, BitVec.shiftLeft_xor_distrib]
  ext i hi
  cases x.getLsbD 7 <;> cases y.getLsbD 7 <;>
    cases hx : (x <<< 1)[i] <;> cases hy : (y <<< 1)[i] <;> cases hp : crcPoly[i] <;> simp [hx, hy, hp]

theorem crcShifts_xor (n : Nat) (x y : Byte) : crcShifts n (x ^^^ y) = crcShifts n x ^^^ crcShifts n y := by
  induction n generalizing x y with
  | zero => rfl
  | succ n ih => simp only [crcShifts, crcShift_xor, ih]

@[simp] theorem crc8Fold_nil (c : Byte) : crc8Fold c [] = c := rfl
@[simp] theorem crc8Fold_cons (c b : Byte) (bs : List Byte) : crc8Fold c (b :: bs) = crc8Fold (crc8Add c b) bs := rfl

end Sys2Proof.Machine
end

