-- ==== Sys2Proof/Laws/Codec.lean ====
section
/-! SUPPORT. The bit fields of the configuration byte under the three mutators (spec/41_config_codec.md R64 to R67). -/

namespace Sys2Proof.Machine

theorem setRes_fields : ∀ (k : BitVec 2) (b : Byte), resField (setRes k b) = k ∧ vddField (setRes k b) = vddField b ∧
    reservedField (setRes k b) = reservedField b ∧ htrField (setRes k b) = htrField b ∧
    otpField (setRes k b) = otpField b := by decide +kernel

theorem setHtr_fields : ∀ (e : Bool) (b : Byte), resField (setHtr e b) = resField b ∧
    vddField (setHtr e b) = vddField b ∧ reservedField (setHtr e b) = reservedField b ∧
    htrField (setHtr e b) = BitVec.ofBool e ∧ otpField (setHtr e b) = otpField b := by decide +kernel

theorem setOtp_fields : ∀ (e : Bool) (b : Byte), resField (setOtp e b) = resField b ∧
    vddField (setOtp e b) = vddField b ∧ reservedField (setOtp e b) = reservedField b ∧
    htrField (setOtp e b) = htrField b ∧ otpField (setOtp e b) = BitVec.ofBool e := by decide +kernel

/-- The fields determine the byte. -/
theorem cfg_ext : ∀ b b' : Byte, resField b = resField b' → vddField b = vddField b' →
    reservedField b = reservedField b' → htrField b = htrField b' → otpField b = otpField b' → b = b' := by
  intro b b' h1 h2 h3 h4 h5
  have key : ∀ x : Byte, x = (resField x).extractLsb' 1 1 ++ vddField x ++ reservedField x ++ htrField x ++
      ~~~(otpField x) ++ (resField x).extractLsb' 0 1 := by decide +kernel
  rw [key b, key b', h1, h2, h3, h4, h5]

end Sys2Proof.Machine
end

