-- ==== Sys2Proof/Laws/Decode.lean ====
section
/-! SUPPORT. The two fields of a command word, and when an operand is accepted. -/

namespace Sys2Proof

@[simp] theorem opcodeOf_append (op : BitVec 8) (x : Word16) : opcodeOf (op ++ x) = op := by
  ext i hi
  simp only [opcodeOf, BitVec.getElem_extractLsb']
  change (op ++ x : BitVec (8 + 16)).getLsbD (16 + i) = op[i]
  rw [BitVec.getLsbD_append]; simp [hi]

@[simp] theorem operandOf_append (op : BitVec 8) (x : Word16) : operandOf (op ++ x) = x := by
  ext i hi
  simp only [operandOf, BitVec.getElem_extractLsb']
  change (op ++ x : BitVec (8 + 16)).getLsbD (0 + i) = x[i]
  rw [BitVec.getLsbD_append]; simp [hi]

/-- A word is its two fields. -/
theorem opcode_append_operand (w : CmdWord) : (opcodeOf w ++ operandOf w : CmdWord) = w := by
  ext i hi
  simp only [opcodeOf, operandOf, BitVec.getElem_append, BitVec.getElem_extractLsb']
  split
  · simp [BitVec.getLsbD_eq_getElem hi]
  · rw [← BitVec.getLsbD_eq_getElem hi]; congr 1; omega

/-- Decoding a word given by its two fields. -/
theorem decode_append (op : BitVec 8) (x : Word16) : decode (op ++ x) = decodeFields op x := by simp [decode]

@[simp] theorem accept_true (i : Instr) : accept true i = .ok i := rfl
@[simp] theorem accept_false (i : Instr) : accept false i = .error .unusedOperandBits := rfl

/-- An accepted operand has its unused bits zero. -/
theorem accept_eq_ok {c : Bool} {i j : Instr} (h : accept c i = .ok j) : c = true ∧ i = j := by
  cases c <;> simp_all

end Sys2Proof
end

