-- ==== Sys2Proof/Laws/Exec.lean ====
section
/-! SUPPORT. What a command can do, said once for all fourteen. -/

namespace Sys2Proof.Machine

/-- The response of a decode is that of an executed command. -/
@[simp] theorem decodedResp_ok (kind : MeasurementKind) (raw : Word16) : (decodedResp kind raw).ok = true := by
  unfold decodedResp; split <;> rfl

/-- A command is rejected for want of a loaded byte, or it is executed: then its response has `ok`, and besides the
response at most `CRC` and `CFG` differ. -/
theorem exec_next {i : Instr} {s t : State} (h : exec i s = .next t) :
    (s.cfg = .notLoaded ∧ raise .configNotLoaded s = .next t) ∨
    ∃ crc cfg r, r.ok = true ∧ t = { s with crc := crc, cfg := cfg, resp := some r } := by
  have exe : ∀ {r : Resp} {u : State}, answer r u = .next t → r.ok = true → u.fault = s.fault → u.input = s.input →
      ∃ crc cfg r, r.ok = true ∧ t = { s with crc := crc, cfg := cfg, resp := some r } := by
    intro r u h hr hf hi
    obtain rfl := answer_next h
    exact ⟨u.crc, u.cfg, r, hr, by cases u; simp_all⟩
  have req : ∀ {k : Byte → StepResult}, requireCfg s k = .next t →
      (∀ b, k b = .next t → ∃ crc cfg r, r.ok = true ∧ t = { s with crc := crc, cfg := cfg, resp := some r }) → _ :=
    fun h hk => (requireCfg_next h).imp_right fun ⟨b, _, hb⟩ => hk b hb
  cases i with
  | crcInit => exact .inr (exe h rfl rfl rfl)
  | crcAdd b => exact .inr (exe h rfl rfl rfl)
  | crcValue => exact .inr (exe h rfl rfl rfl)
  | cfgLoad b => exact .inr (exe h rfl rfl rfl)
  | cfgRaw => exact req h fun b h => exe h rfl rfl rfl
  | cfgGres => exact req h fun b h => exe h rfl rfl rfl
  | cfgGvdd => exact req h fun b h => exe h rfl rfl rfl
  | cfgGhtr => exact req h fun b h => exe h rfl rfl rfl
  | cfgGotp => exact req h fun b h => exe h rfl rfl rfl
  | cfgSres c => exact req h fun b h => exe h rfl rfl rfl
  | cfgShtr e => exact req h fun b h => exe h rfl rfl rfl
  | cfgSotp e => exact req h fun b h => exe h rfl rfl rfl
  | decT r => exact .inr (exe h (decodedResp_ok _ _) rfl rfl)
  | decH r => exact .inr (exe h (decodedResp_ok _ _) rfl rfl)

end Sys2Proof.Machine
end

