-- ==== Sys2Proof/Laws/PerInstr.lean ====
section
/-! SUPPORT. Per-command lemmas about encodings. -/

namespace Sys2Proof.Laws.RowMatch

/-- The word a command encodes to matches a row of spec/30_encoding.md R39 whose layout is the command's. -/
def Statement (i : Instr) : Prop :=
  opcodeTable.any (fun r => r.matchesWord (encode i) && decide (r.layout = i.layout)) = true

theorem crcInit : Statement .crcInit := by unfold Statement; decide
theorem crcAdd (b : Byte) : Statement (.crcAdd b) := by revert b; unfold Statement; decide
theorem crcValue : Statement .crcValue := by unfold Statement; decide
theorem cfgLoad (b : Byte) : Statement (.cfgLoad b) := by revert b; unfold Statement; decide
theorem cfgRaw : Statement .cfgRaw := by unfold Statement; decide
theorem cfgGres : Statement .cfgGres := by unfold Statement; decide
theorem cfgGvdd : Statement .cfgGvdd := by unfold Statement; decide
theorem cfgGhtr : Statement .cfgGhtr := by unfold Statement; decide
theorem cfgGotp : Statement .cfgGotp := by unfold Statement; decide
theorem cfgSres (c : BitVec 2) : Statement (.cfgSres c) := by revert c; unfold Statement; decide
theorem cfgShtr (e : Bool) : Statement (.cfgShtr e) := by revert e; unfold Statement; decide
theorem cfgSotp (e : Bool) : Statement (.cfgSotp e) := by revert e; unfold Statement; decide

/-- Masking a DEC word leaves its opcode. -/
theorem mask_opcode (op : BitVec 8) (r : Word16) : (op ++ r : CmdWord) &&& 0xFF0000 = op ++ (0 : Word16) := by
  ext i hi
  simp only [BitVec.getElem_and, BitVec.getElem_append]
  interval_cases i <;> simp

theorem decT (r : Word16) : Statement (.decT r) :=
  List.any_eq_true.2 ⟨⟨"DEC.T", .W, 0xFF0000, 0x300000⟩, by simp [opcodeTable],
    by simp only [OpcodeRow.matchesWord, encode, mask_opcode, Instr.layout]; decide⟩

theorem decH (r : Word16) : Statement (.decH r) :=
  List.any_eq_true.2 ⟨⟨"DEC.H", .W, 0xFF0000, 0x310000⟩, by simp [opcodeTable],
    by simp only [OpcodeRow.matchesWord, encode, mask_opcode, Instr.layout]; decide⟩

end Sys2Proof.Laws.RowMatch
end

