-- ==== Sys2Proof/Machine/AssemblerText.lean ====
section
/-! DEFINITION. The text of the spec's assembler notation (spec/30_encoding.md R43, R44, spec/00_scope.md R9): one command
or pseudo-instruction a line, `;` starting a comment. A line is a list of characters. -/

namespace Sys2Proof.Machine

/-- The value of a digit; hexadecimal digits in either case (DESIGN CHOICE, log entry 12). -/
def digitValue (c : Char) : Nat :=
  if '0' ≤ c ∧ c ≤ '9' then c.toNat - '0'.toNat
  else if 'A' ≤ c ∧ c ≤ 'F' then c.toNat - 'A'.toNat + 10
  else if 'a' ≤ c ∧ c ≤ 'f' then c.toNat - 'a'.toNat + 10
  else 16

/-- The number spelled by digits of a base, read on from `acc`; nothing when a character is no digit of the base. -/
def digitsFrom (base acc : Nat) : List Char → Option Nat
  | [] => some acc
  | c :: cs => if digitValue c < base then digitsFrom base (acc * base + digitValue c) cs else none

/-- The number spelled by at least one digit. -/
def digits (base : Nat) (cs : List Char) : Option Nat := if cs = [] then none else digitsFrom base 0 cs

/-- A literal of R9: `0x` hexadecimal, `0b` binary with `_` as a digit separator, otherwise decimal. R9 does not say where
a `_` may stand: every `_` after `0b` is dropped, leading, trailing and doubled ones too, and at least one digit must
remain (DESIGN CHOICE, log entry 12). -/
def literal : List Char → Option Nat
  | '0' :: 'x' :: cs => digits 16 cs
  | '0' :: 'b' :: cs => digits 2 (cs.filter (· ≠ '_'))
  | cs => digits 10 cs

/-- An operand as written: a literal, else a symbol. -/
def operandOfText (cs : List Char) : AsmOperand :=
  match literal cs with
  | some n => .number n
  | none => .symbol (String.ofList cs)

/-- The line up to its comment. -/
def beforeComment (line : List Char) : List Char := line.takeWhile (· ≠ ';')

/-- The pieces of `cs` between the characters that `sep` holds of. -/
def pieces (sep : Char → Bool) : List Char → List (List Char)
  | [] => [[]]
  | c :: cs =>
    match pieces sep cs with
    | [] => [[c]]
    | w :: ws => if sep c then [] :: w :: ws else (c :: w) :: ws

/-- The non-empty pieces of `cs` between blanks. -/
def wordsOf (cs : List Char) : List (List Char) := (pieces (fun c => c == ' ' || c == '\t') cs).filter (· ≠ [])

/-- A byte operand. -/
def byteOfText (cs : List Char) : Option Byte :=
  match literal cs with
  | some n => if n < 256 then some (BitVec.ofNat 8 n) else none
  | none => none

/-- All of the list, or nothing. -/
def allSome {α : Type} : List (Option α) → Option (List α)
  | [] => some []
  | none :: _ => none
  | some a :: rest => (allSome rest).map (a :: ·)

/-- The bytes of a comma-separated operand list; an empty list is no bytes. -/
def byteListOfText (cs : List Char) : Option (List Byte) :=
  match wordsOf cs with
  | [] => some []
  | _ => allSome ((pieces (· == ',') cs).map fun piece =>
      match wordsOf piece with
      | [w] => byteOfText w
      | _ => none)

/-- The operand `hi:lo` of a decode command (R44). -/
def bytePair (cs : List Char) : Option (Byte × Byte) :=
  match (pieces (· == ':') cs).map byteOfText with
  | [some hi, some lo] => some (hi, lo)
  | _ => none

/-- What a mnemonic with the rest of its line stands for: a pseudo-instruction of R44, or a command of R43. -/
def assembleRest (mnemonic : List Char) (rest : List Char) : Option (List Instr) :=
  if mnemonic = "CRC.ADDALL".toList then (byteListOfText rest).map crcAddAll
  else if mnemonic = "CRC.OF".toList then (byteListOfText rest).map crcOf
  else if mnemonic = "CRC.CHECK3".toList then
    match byteListOfText rest with
    | some [hi, lo, c] => some (crcCheck3 hi lo c)
    | _ => none
  else match wordsOf rest with
    | [] => (assemble (String.ofList mnemonic) none).map ([·])
    | [w] =>
      match bytePair w with
      | none => (assemble (String.ofList mnemonic) (some (operandOfText w))).map ([·])
      | some (hi, lo) =>
        if mnemonic = "DEC.T".toList then some [decTBytes hi lo]
        else if mnemonic = "DEC.H".toList then some [decHBytes hi lo]
        else none
    | _ => none

/-- What one line stands for: its commands in order, none of them for a line that is blank or only a comment. -/
def assembleLine (line : List Char) : Option (List Instr) :=
  match wordsOf (beforeComment line) with
  | [] => some []
  | mnemonic :: _ =>
    assembleRest mnemonic (((beforeComment line).dropWhile fun c => c == ' ' || c == '\t').drop mnemonic.length)

/-- A program of the notation: its lines' commands one after the other (R43). -/
def assembleLines (lines : List (List Char)) : Option (List Instr) := (allSome (lines.map assembleLine)).map List.flatten

end Sys2Proof.Machine
end

