-- ==== Sys2Proof/Tests/Slice0.lean ====
section
/-! SUPPORT. Tests against spec/95_test_vectors.md and the examples in the rules, and for every statement with
hypotheses a concrete case that meets them. -/

namespace Sys2Proof.Tests

open Sys2Proof.Machine Sys2Proof.Safety

/-- A small state: `CRC`, `CFG` with `CFG_VALID`, `FAULT`. -/
def st (crc : Byte) (cfg : ConfigRegister) (fault : BitVec 2) : State := ⟨crc, cfg, fault, [], none⟩

/-- The state a step reaches, if it answers one. -/
def nextOf : StepResult → Option State
  | .next t => some t
  | .fault _ => none
  | .refused _ => none

/-- One step with the word presented. -/
def run1 (w : CmdWord) (s : State) : Option State := nextOf (step (present w s))

/-- The response of an executed command without a reading. -/
def ans (data : Word16) : Option Resp := some ⟨true, data, .noReading, none⟩

/-- The rejection response. -/
def rej (data : Word16) : Option Resp := some ⟨false, data, .noReading, none⟩

/-! ### Well-formedness: an ill-formed operand for each layout with unused bits (R37, R40) -/

theorem smoke_layoutN_refuses : Layout.fits .N 0x0001 = false := by decide
theorem smoke_layoutB_refuses : Layout.fits .B 0x0100 = false := by decide
theorem smoke_layoutC_refuses : Layout.fits .C 0x0004 = false := by decide
theorem smoke_layoutF_refuses : Layout.fits .F 0x0002 = false := by decide
theorem smoke_layoutW_has_no_unused_bit : Layout.fits .W 0xFFFF = true := by decide
theorem smoke_instr_wf : (Instr.cfgSres 3).wf = true ∧ (Instr.decH 0xFFFF).wf = true := by decide
theorem smoke_illegal_words : CmdWord.legal 0x000000 = false ∧ CmdWord.legal 0xFFFFFF = false ∧
    CmdWord.legal 0x110100 = false ∧ CmdWord.legal 0x260004 = false ∧ CmdWord.legal 0x270002 = false := by decide

/-! ### Decoding: each command's word, bit by bit from R39 -/

theorem test_decode_crcInit : decode 0b00010000_00000000_00000000 = .ok .crcInit := by decide
theorem test_decode_crcAdd : decode 0b00010001_00000000_11011100 = .ok (.crcAdd 0xDC) := by decide
theorem test_decode_crcValue : decode 0b00010010_00000000_00000000 = .ok .crcValue := by decide
theorem test_decode_cfgLoad : decode 0b00100000_00000000_00111010 = .ok (.cfgLoad 0x3A) := by decide
theorem test_decode_cfgRaw : decode 0b00100001_00000000_00000000 = .ok .cfgRaw := by decide
theorem test_decode_cfgGres : decode 0b00100010_00000000_00000000 = .ok .cfgGres := by decide
theorem test_decode_cfgGvdd : decode 0b00100011_00000000_00000000 = .ok .cfgGvdd := by decide
theorem test_decode_cfgGhtr : decode 0b00100100_00000000_00000000 = .ok .cfgGhtr := by decide
theorem test_decode_cfgGotp : decode 0b00100101_00000000_00000000 = .ok .cfgGotp := by decide
theorem test_decode_cfgSres : decode 0b00100110_00000000_00000010 = .ok (.cfgSres 0b10) := by decide
theorem test_decode_cfgShtr : decode 0b00100111_00000000_00000001 = .ok (.cfgShtr true) := by decide
theorem test_decode_cfgSotp : decode 0b00101000_00000000_00000000 = .ok (.cfgSotp false) := by decide
theorem test_decode_decT : decode 0b00110000_01001110_10000101 = .ok (.decT 0x4E85) := by decide
theorem test_decode_decH : decode 0b00110001_01101000_00111010 = .ok (.decH 0x683A) := by decide
theorem test_decode_illegal_operands : decode 0x100001 = .error .unusedOperandBits ∧
    decode 0x20FF3A = .error .unusedOperandBits ∧ decode 0x270002 = .error .unusedOperandBits := by decide
theorem test_decode_illegal_opcodes : decode 0x130000 = .error .unknownOpcode ∧
    decode 0x290000 = .error .unknownOpcode ∧ decode 0x320000 = .error .unknownOpcode := by decide
/-- The sensor's own bus opcodes are no commands (section 2.5). -/
theorem test_sensor_opcodes_are_illegal :
    [0xE30000#24, 0xE50000, 0xE60000, 0xE70000, 0xF30000, 0xF50000, 0xFE0000].all (fun w => !CmdWord.legal w) = true := by
  decide
theorem test_decodeTableWord : decodeTableWord 24 0x1100DC = some (.crcAdd 0xDC) ∧ decodeTableWord 24 0x110100 = none ∧
    decodeTableWord 32 0x1100DC = none := by decide
theorem test_withFetchWord : nextOf (step (State.reset.withFetchWord 24 0x1100DC)) =
    some { State.reset with crc := 0x79, resp := ans 0 } := by decide
theorem test_table_size : opcodeTable.length = Config.numCommands := by decide

/-! ### The assembler's text (R43, R44, R9; the words of section 2.5 and of 90_conflicts.md C1) -/

theorem test_asm_literals : assembleLine "CFG.LOAD 0b0011_1010 ; the source's byte".toList = some [.cfgLoad 0x3A] ∧
    assembleLine "CRC.ADD 220".toList = some [.crcAdd 0xDC] ∧ assembleLine "CRC.ADD 256".toList = none := by decide
theorem test_asm_symbol : assembleLines ["CFG.SRES RH11_T11".toList, "; a comment".toList, "CFG.SOTP OFF".toList] =
    some [.cfgSres 3, .cfgSotp false] := by decide
theorem test_asm_check3 : assembleLine "CRC.CHECK3 0x68, 0x3A, 0x7C".toList =
    some [.crcInit, .crcAdd 0x68, .crcAdd 0x3A, .crcAdd 0x7C, .crcValue] := by decide
theorem test_asm_pair : assembleLine "DEC.T 0x4E:0x85".toList = some [.decT 0x4E85] ∧
    assembleLine "CRC.INIT 0".toList = none := by decide

/-! ### The checksum unit (sections 1.1, 2.1, 2.2) -/

theorem test_crcInit : run1 0x100000 (st 0x7C .notLoaded 0) = some ⟨0x00, .notLoaded, 0, [], ans 0⟩ := by decide
theorem test_crcAdd_source : crc8 [0xDC] = 0x79 ∧ crc8 [0x68, 0x3A] = 0x7C ∧ crc8 [0x4E, 0x85] = 0x6B := by decide +kernel
theorem test_crcAdd_zero_byte : run1 0x110000 (st 0x01 .notLoaded 0) = some ⟨0x31, .notLoaded, 0, [], ans 0⟩ := by
  decide
theorem test_crcValue : run1 0x120000 (st 0x79 .notLoaded 0) = some ⟨0x79, .notLoaded, 0, [], ans 0x0079⟩ := by decide
theorem test_crc_replies : crc8 [0xFF, 0xFF, 0xFF] = 0x66 ∧ crc8 [0xFF, 0xFF, 0x2D] = 0x00 ∧
    crc8 [0x4E, 0x85, 0x6A] = 0x31 ∧ crc8 [0x4F, 0x85, 0x6B] = 0x46 ∧ crc8 [1, 2, 3, 4, 5] = 0x68 ∧
    Config.replyLen = 3 := by decide +kernel

/-- Section 2.2, rows 0 to 7. -/
def crcTableLow : List Nat :=
  [0x00, 0x31, 0x62, 0x53, 0xC4, 0xF5, 0xA6, 0x97, 0xB9, 0x88, 0xDB, 0xEA, 0x7D, 0x4C, 0x1F, 0x2E] ++
  [0x43, 0x72, 0x21, 0x10, 0x87, 0xB6, 0xE5, 0xD4, 0xFA, 0xCB, 0x98, 0xA9, 0x3E, 0x0F, 0x5C, 0x6D] ++
  [0x86, 0xB7, 0xE4, 0xD5, 0x42, 0x73, 0x20, 0x11, 0x3F, 0x0E, 0x5D, 0x6C, 0xFB, 0xCA, 0x99, 0xA8] ++
  [0xC5, 0xF4, 0xA7, 0x96, 0x01, 0x30, 0x63, 0x52, 0x7C, 0x4D, 0x1E, 0x2F, 0xB8, 0x89, 0xDA, 0xEB] ++
  [0x3D, 0x0C, 0x5F, 0x6E, 0xF9, 0xC8, 0x9B, 0xAA, 0x84, 0xB5, 0xE6, 0xD7, 0x40, 0x71, 0x22, 0x13] ++
  [0x7E, 0x4F, 0x1C, 0x2D, 0xBA, 0x8B, 0xD8, 0xE9, 0xC7, 0xF6, 0xA5, 0x94, 0x03, 0x32, 0x61, 0x50] ++
  [0xBB, 0x8A, 0xD9, 0xE8, 0x7F, 0x4E, 0x1D, 0x2C, 0x02, 0x33, 0x60, 0x51, 0xC6, 0xF7, 0xA4, 0x95] ++
  [0xF8, 0xC9, 0x9A, 0xAB, 0x3C, 0x0D, 0x5E, 0x6F, 0x41, 0x70, 0x23, 0x12, 0x85, 0xB4, 0xE7, 0xD6]

/-- Section 2.2, rows 8 to F. -/
def crcTableHigh : List Nat :=
  [0x7A, 0x4B, 0x18, 0x29, 0xBE, 0x8F, 0xDC, 0xED, 0xC3, 0xF2, 0xA1, 0x90, 0x07, 0x36, 0x65, 0x54] ++
  [0x39, 0x08, 0x5B, 0x6A, 0xFD, 0xCC, 0x9F, 0xAE, 0x80, 0xB1, 0xE2, 0xD3, 0x44, 0x75, 0x26, 0x17] ++
  [0xFC, 0xCD, 0x9E, 0xAF, 0x38, 0x09, 0x5A, 0x6B, 0x45, 0x74, 0x27, 0x16, 0x81, 0xB0, 0xE3, 0xD2] ++
  [0xBF, 0x8E, 0xDD, 0xEC, 0x7B, 0x4A, 0x19, 0x28, 0x06, 0x37, 0x64, 0x55, 0xC2, 0xF3, 0xA0, 0x91] ++
  [0x47, 0x76, 0x25, 0x14, 0x83, 0xB2, 0xE1, 0xD0, 0xFE, 0xCF, 0x9C, 0xAD, 0x3A, 0x0B, 0x58, 0x69] ++
  [0x04, 0x35, 0x66, 0x57, 0xC0, 0xF1, 0xA2, 0x93, 0xBD, 0x8C, 0xDF, 0xEE, 0x79, 0x48, 0x1B, 0x2A] ++
  [0xC1, 0xF0, 0xA3, 0x92, 0x05, 0x34, 0x67, 0x56, 0x78, 0x49, 0x1A, 0x2B, 0xBC, 0x8D, 0xDE, 0xEF] ++
  [0x82, 0xB3, 0xE0, 0xD1, 0x46, 0x77, 0x24, 0x15, 0x3B, 0x0A, 0x59, 0x68, 0xFF, 0xCE, 0x9D, 0xAC]

theorem test_crc_table : (List.range 256).map (fun x => (crc8Add 0x00 (BitVec.ofNat 8 x)).toNat) =
    crcTableLow ++ crcTableHigh := by decide +kernel

/-! ### The configuration codec (sections 1.5 and 2.3) -/

theorem test_cfgLoad : run1 0x20003A (st 0 .notLoaded 0) = some ⟨0, .loaded 0x3A, 0, [], ans 0⟩ := by decide
theorem test_cfgRaw : run1 0x210000 (st 0 (.loaded 0xBD) 0) = some ⟨0, .loaded 0xBD, 0, [], ans 0x00BD⟩ := by decide
theorem test_cfgRaw_before_load : run1 0x210000 (st 0 .notLoaded 0) = some ⟨0, .notLoaded, 0b10, [], rej 2⟩ := by decide
theorem test_cfgGres : run1 0x220000 (st 0 (.loaded 0x80) 0) = some ⟨0, .loaded 0x80, 0, [], ans 2⟩ ∧
    run1 0x220000 (st 0 (.loaded 0x45) 0) = some ⟨0, .loaded 0x45, 0, [], ans 1⟩ := by decide
theorem test_cfgGvdd : run1 0x230000 (st 0 (.loaded 0x7D) 0) = some ⟨0, .loaded 0x7D, 0, [], ans 1⟩ ∧
    run1 0x230000 (st 0 (.loaded 0xBD) 0) = some ⟨0, .loaded 0xBD, 0, [], ans 0⟩ := by decide
theorem test_cfgGhtr : run1 0x240000 (st 0 (.loaded 0x3A) 0) = some ⟨0, .loaded 0x3A, 0, [], ans 0⟩ ∧
    run1 0x240000 (st 0 (.loaded 0x45) 0) = some ⟨0, .loaded 0x45, 0, [], ans 1⟩ := by decide
theorem test_cfgGotp : run1 0x250000 (st 0 (.loaded 0x3A) 0) = some ⟨0, .loaded 0x3A, 0, [], ans 0⟩ ∧
    run1 0x250000 (st 0 (.loaded 0xBD) 0) = some ⟨0, .loaded 0xBD, 0, [], ans 1⟩ := by decide
theorem test_cfgSres : run1 0x260003 (st 0 (.loaded 0x3A) 0) = some ⟨0, .loaded 0xBB, 0, [], ans 0⟩ ∧
    run1 0x260001 (st 0 (.loaded 0xFF) 0) = some ⟨0, .loaded 0x7F, 0, [], ans 0⟩ := by decide
theorem test_cfgShtr : run1 0x270001 (st 0 (.loaded 0xBB) 0) = some ⟨0, .loaded 0xBF, 0, [], ans 0⟩ ∧
    run1 0x270000 (st 0 (.loaded 0xFF) 0) = some ⟨0, .loaded 0xFB, 0, [], ans 0⟩ := by decide
theorem test_cfgSotp : run1 0x280001 (st 0 (.loaded 0xBF) 0) = some ⟨0, .loaded 0xBD, 0, [], ans 0⟩ ∧
    run1 0x280000 (st 0 (.loaded 0x01) 0) = some ⟨0, .loaded 0x03, 0, [], ans 0⟩ := by decide
/-- Section 2.3, the row of 0x7D. -/
theorem test_codec_row_7D : [setRes 0 0x7D, setRes 1 0x7D, setRes 2 0x7D, setRes 3 0x7D, setHtr false 0x7D,
    setHtr true 0x7D, setOtp false 0x7D, setOtp true 0x7D] = [0x7C#8, 0x7D, 0xFC, 0xFD, 0x79, 0x7D, 0x7F, 0x7D] := by
  decide

/-! ### The reading decoder (section 2.4) -/

theorem test_decT : run1 0x304E85 (st 0 .notLoaded 0) =
    some ⟨0, .notLoaded, 0, [], some ⟨true, 0x4E84, .normal, some 0x40E16550⟩⟩ := by decide +kernel
theorem test_decH : run1 0x31683A (st 0 .notLoaded 0) =
    some ⟨0, .notLoaded, 0, [], some ⟨true, 0x6838, .normal, some 0x42338D60⟩⟩ := by decide +kernel
theorem test_decT_error_high : run1 0x30FFFF (st 0 .notLoaded 0) =
    some ⟨0, .notLoaded, 0, [], some ⟨true, 0x0000, .errorHigh, none⟩⟩ := by decide
theorem test_decH_error_low : run1 0x310000 (st 0 .notLoaded 0) =
    some ⟨0, .notLoaded, 0, [], some ⟨true, 0x0000, .errorLow, none⟩⟩ := by decide
theorem test_temperature_vectors :
    [0x0000#16, 0x0004, 0x0C48, 0x0C4C, 0x4440, 0x4444, 0x6838, 0x7FFC, 0x8000, 0xD914, 0xD918, 0xFFF8, 0xFFFC].map
      (phys32 .temperature) =
    [0xC23B6666#32, 0xC23B5B6A, 0xC219AE27, 0xC219A32C, 0xBB35C000, 0x3C025000, 0x41C57DC0, 0x4223FF42, 0x42240A3E,
      0x42CC4EBD, 0x42CC543B, 0x4300D93A, 0x4300DBFA] := by decide +kernel
theorem test_humidity_vectors :
    [0x0000#16, 0x0004, 0x0C48, 0x0C4C, 0x4440, 0x4444, 0x4E84, 0x7FFC, 0x8000, 0xD914, 0xD918, 0xFFF8, 0xFFFC].map
      (phys32 .humidity) =
    [0xC0C00000#32, 0xC0BFC180, 0xBB580000, 0x3B8E0000, 0x41DA9A00, 0x41DAA9A0, 0x420159D0, 0x4261F830, 0x42620000,
      0x42C7FD88, 0x42C80170, 0x42EDF830, 0x42EDFC18] := by decide +kernel
/-- The intermediate values of R74. -/
theorem test_binary32_intermediates :
    [0x0004#16, 0x4E84, 0xFFFC].map fraction32 = [0x38800000#32, 0x3E9D0800, 0x3F7FFC00] ∧
    [0x0004#16, 0x4E84, 0xFFFC].map (scaled32 .temperature) = [0x3C2FB852#32, 0x42579310, 0x432FB593] ∧
    fraction32 0x6838 = 0x3ED07000 ∧ scaled32 .humidity 0x6838 = 0x424B8D60 := by decide +kernel
theorem test_binary32_constants : fl32 17572 100 = tScale32 ∧ fl32 (-4685) 100 = tOffset32 ∧
    fl32 125 1 = hScale32 ∧ fl32 (-6) 1 = hOffset32 := by decide +kernel

/-! ### Exceptions, reset, nothing presented (sections 2.6 and 2.7) -/

theorem test_illegal_wins : run1 0x270002 (st 0 .notLoaded 0) = some ⟨0, .notLoaded, 0b01, [], rej 1⟩ := by decide
theorem test_fault_accumulates : run1 0x000000 (st 0 .notLoaded 0b10) = some ⟨0, .notLoaded, 0b11, [], rej 1⟩ := by
  decide
theorem test_rejection_keeps_registers : run1 0x110100 (st 0x5A (.loaded 0x3A) 0) =
    some ⟨0x5A, .loaded 0x3A, 0b01, [], rej 1⟩ := by decide
theorem test_fault_blocks_nothing : run1 0x120000 (st 0x5A (.loaded 0x3A) 0b01) =
    some ⟨0x5A, .loaded 0x3A, 0b01, [], ans 0x005A⟩ := by decide
theorem test_reset_with_a_command :
    nextOf (step ⟨0x9B, .loaded 0xBD, 0b11, [⟨true, some 0x1100FF⟩], ans 1⟩) = some State.reset := by decide
theorem test_nothing_presented : nextOf (step ⟨0x9B, .loaded 0xBD, 0b11, [⟨false, none⟩], ans 1⟩) =
    some (st 0x9B (.loaded 0xBD) 0b11) := by decide
theorem test_status_ports : stFault (st 0 .notLoaded 0b10) = 0b10 ∧ stCfgValid (st 0 .notLoaded 0) = false ∧
    stCfgValid (st 0 (.loaded 0) 0) = true := by decide
theorem test_pseudo_decT : decTBytes 0x4E 0x85 = .decT 0x4E85 ∧ decHBytes 0x68 0x3A = .decH 0x683A := by decide
theorem test_resolution_codes : resolutionOfCode (resolutionCode .rh10T13) = .rh10T13 ∧
    resolutionCode .rh11T11 = 0b11 := by decide

/-! ### Witnesses: for each statement with hypotheses, a case that meets them -/

/-- A loaded state and one that is not, with a bit of `FAULT` set. -/
def sL : State := st 0x5A (.loaded 0x3A) 0b01
def sN : State := st 0x5A .notLoaded 0b01

theorem witness_DecodeEncodeRoundTrip : decode 0x31FFFF = .ok (.decH 0xFFFF) := by decide
theorem witness_LegalWordsAreThoseOfTheTable : (⟨"DEC.H", .W, 0xFF0000, 0x310000⟩ : OpcodeRow) ∈ opcodeTable ∧
    (⟨"DEC.H", .W, 0xFF0000, 0x310000⟩ : OpcodeRow).matchesWord 0x31FFFF = true := by decide
theorem witness_AssemblerReadsEveryCommand : (⟨"CRC.ADD", .B, 0xFFFF00, 0x110000⟩ : OpcodeRow) ∈ opcodeTable ∧
    2 ^ Layout.B.usedBits ≤ 256 ∧ assemble "CRC.ADD" (some (.number 256)) = none := by decide
theorem witness_ResetInputWinsOverACommand_reset :
    (⟨1, .loaded 2, 3, [⟨true, some 0xFFFFFF⟩, ⟨false, none⟩], none⟩ : State).input =
      ⟨true, some 0xFFFFFF⟩ :: [⟨false, none⟩] := by decide
theorem witness_ResetInputWinsOverACommand_other : (∀ c rest, (present 0x270002 sL).input ≠ ⟨true, c⟩ :: rest) ∧
    step (present 0x270002 sL) = .next (afterRejection 0b01 sL) ∧ sL.fault.getLsbD 0 = true ∧ cfgValid sL = true := by
  refine ⟨fun c rest h => ?_, rfl, rfl, rfl⟩
  simp [present] at h
theorem witness_NothingPresentedHoldsTheRegisters : sL.input = [] ∧
    (⟨1, .notLoaded, 3, [⟨false, none⟩], none⟩ : State).input = ⟨false, none⟩ :: [] := by decide
theorem witness_StepRunsTheDecodedCommand : (present 0x1100DC sL).input = ⟨false, some 0x1100DC⟩ :: [] ∧
    decode 0x1100DC = .ok (.crcAdd 0xDC) := by decide
theorem witness_IllegalCommandExactlyWhenUndecoded : decode 0x270002 = .error .unusedOperandBits ∧
    step (present 0x270002 sL) = .next (afterRejection 0b01 sL) := ⟨by decide, rfl⟩
theorem witness_ConfigNotLoadedExactlyWhen : decode 0x270001 = .ok (.cfgShtr true) ∧
    needsLoadedConfig (.cfgShtr true) = true ∧ cfgValid sN = false ∧
    step (present 0x270001 sN) = .next (afterRejection 0b10 sN) ∧
    step (present 0x120000 sL) = .next (afterAnswer 0x005A sL) ∧ cfgValid sL = true ∧
    decode 0x20003A = .ok (.cfgLoad 0x3A) ∧ sL.input = [] ∧ step sL = .next { sL with resp := none } :=
  ⟨by decide, rfl, rfl, rfl, rfl, rfl, by decide, rfl, rfl⟩
theorem witness_RejectionChangesOnlyFault : decode 0xFFFFFF = .error .unknownOpcode ∧
    decode 0x260000 = .ok (.cfgSres 0) ∧ needsLoadedConfig (.cfgSres 0) = true ∧ sN.cfg = .notLoaded := by decide
theorem witness_RejectionPriority : step (present 0x270001 sN) = .next (afterRejection 0b10 sN) ∧
    decode 0x270002 = .error .unusedOperandBits ∧ cfgValid sN = false := ⟨rfl, by decide, rfl⟩
theorem witness_FaultIsTheOrOfAllCauses : exec .crcInit sL = .next (afterAnswer 0 { sL with crc := 0 }) := rfl
theorem witness_EveryStepKeepsTheInvariant : BlockInv (afterRejection 0b10 sN) ∧
    step (present 0x120000 (afterRejection 0b10 sN)) = .next (afterAnswer 0x005A (afterRejection 0b10 sN)) := by
  refine ⟨fun r hr => ?_, rfl⟩
  obtain rfl := Option.some.inj hr
  exact ⟨.inl ⟨rfl, .inr rfl, rfl, rfl⟩, by decide, fun _ _ => rfl⟩
theorem witness_RegistersWrittenOnlyByTheirCommands_loaded : exec (.cfgSotp true) sL =
      .next (afterAnswer 0 { sL with cfg := .loaded 0x38 }) ∧ writesCrc (.cfgSotp true) = false ∧
    isLoad (.cfgSotp true) = false ∧ needsLoadedConfig (.cfgSotp true) = true ∧ cfgValid sL = true :=
  ⟨rfl, rfl, rfl, rfl, rfl⟩
theorem witness_RegistersWrittenOnlyByTheirCommands_others : exec .cfgRaw sN = .next (afterRejection 0b10 sN) ∧
    isMutator .cfgRaw = false ∧ isLoad .cfgRaw = false ∧ cfgValid sN = false ∧ isLoad (.cfgLoad 7) = true ∧
    exec (.cfgLoad 7) sN = .next (afterAnswer 0 { sN with cfg := .loaded 7 }) := ⟨rfl, rfl, rfl, rfl, rfl, rfl⟩
theorem witness_UnitsShareNoState : exec .crcValue sL = .next (afterAnswer 0x005A sL) ∧
    exec .crcValue sN = .next (afterAnswer 0x005A sN) ∧ (encode .crcValue).extractLsb' 20 4 = 0x1 ∧ sL.crc = sN.crc ∧
    (encode .cfgRaw).extractLsb' 20 4 = 0x2 ∧ (encode (.decH 3)).extractLsb' 20 4 = 0x3 :=
  ⟨rfl, rfl, by decide, rfl, by decide, by decide⟩
theorem witness_CommandsButAddAreIdempotent : (∀ b, Instr.cfgRaw ≠ .crcAdd b) ∧
    exec .cfgRaw sN = .next (afterRejection 0b10 sN) := ⟨fun _ h => (nomatch h), rfl⟩
/-- The hypotheses on unused operand bits of the command statements: layouts N, B, C and F at their lowest unused bit. -/
theorem witness_unused_operand_bits : (0x0001#16 ≠ 0) ∧ (0x0100#16).extractLsb' 8 8 ≠ 0 ∧
    (0x0004#16).extractLsb' 2 14 ≠ 0 ∧ (0x0002#16).extractLsb' 1 15 ≠ 0 := by decide
theorem witness_CrcInitWritesZero : (st 0 .notLoaded 0).crc = 0x00 ∧ (0x8000#16) ≠ 0 := by decide
theorem witness_CrcAddUpdatesTheRemainder : (st 1 .notLoaded 0).crc = 0x01 ∧ (st 0 .notLoaded 0).crc = 0x00 ∧
    (0x0100#16).extractLsb' 8 8 ≠ 0 := by decide
theorem witness_CrcValueAnswersTheRemainder : exec .crcInit sL = .next (afterAnswer 0 { sL with crc := 0 }) ∧
    exec .crcValue sL = .next (afterAnswer 0x005A sL) ∧ (afterAnswer 0x005A sL).resp = ans 0x005A ∧
    (0x0001#16) ≠ 0 := ⟨rfl, rfl, rfl, by decide⟩
theorem witness_SingleBitErrorsAreDetected : (0 < 24 ∧ 23 < 24) ∧ replyValid (0x4E#8 ++ 0x85#8 ++ 0x6B#8 : BitVec 24) = true ∧
    replyValid ((0x4E#8 ++ 0x85#8 ++ 0x6B#8 : BitVec 24) ^^^ (1#24 <<< 23)) = false := by decide +kernel
theorem witness_CfgLoadTakesTheByte : isLoad (.cfgShtr true) = false ∧ sL.cfg = .loaded 0x3A ∧
    exec (.cfgShtr true) sL = .next (afterAnswer 0 { sL with cfg := .loaded 0x3E }) ∧
    (0x0100#16).extractLsb' 8 8 ≠ 0 := ⟨rfl, rfl, rfl, by decide⟩
theorem witness_CfgRawAnswersTheByte : sL.cfg = .loaded 0x3A ∧ sN.cfg = .notLoaded ∧
    exec (.cfgLoad 0xBD) sN = .next (afterAnswer 0 { sN with cfg := .loaded 0xBD }) ∧ (0x0001#16) ≠ 0 :=
  ⟨rfl, rfl, rfl, by decide⟩
/-- Both cases of CFG.GRES and CFG.GHTR. -/
theorem witness_CfgGresAnswersTheResolution : sL.cfg = .loaded 0x3A ∧ sN.cfg = .notLoaded ∧ (0x0001#16) ≠ 0 := by decide
/-- Both cases, a load before it, and a word that is no CFG.LOAD on a byte with bit 6 set. -/
theorem witness_CfgGvddAnswersTheSupplyVoltage : sL.cfg = .loaded 0x3A ∧ sN.cfg = .notLoaded ∧ (0x0001#16) ≠ 0 ∧
    exec (.cfgLoad 0x7D) sN = .next (afterAnswer 0 { sN with cfg := .loaded 0x7D }) ∧
    decode 0x260003 = .ok (.cfgSres 3) ∧
    step (present 0x260003 (st 0 (.loaded 0x7D) 0)) = .next (afterAnswer 0 (st 0 (.loaded 0xFD) 0)) :=
  ⟨rfl, rfl, by decide, rfl, by decide, rfl⟩
theorem witness_CfgGhtrAnswersTheHeater : sL.cfg = .loaded 0x3A ∧ sN.cfg = .notLoaded ∧ (0x0001#16) ≠ 0 := by decide
theorem witness_CfgGotpAnswersAutoReload : sL.cfg = .loaded 0x3A ∧ (st 0 (.loaded 0xBD) 0).cfg = .loaded 0xBD ∧
    sN.cfg = .notLoaded ∧ (0x0001#16) ≠ 0 := by decide
theorem witness_CfgSresSetsTheResolution : sL.cfg = .loaded 0x3A ∧ sN.cfg = .notLoaded ∧
    (0x0004#16).extractLsb' 2 14 ≠ 0 := by decide
theorem witness_CfgShtrSetsTheHeater : sL.cfg = .loaded 0x3A ∧ sL.cfg ≠ .notLoaded ∧ sN.cfg = .notLoaded ∧
    exec (.cfgShtr true) sL = .next (afterAnswer 0 { sL with cfg := .loaded 0x3E }) ∧
    (0x0002#16).extractLsb' 1 15 ≠ 0 := ⟨rfl, by decide, rfl, rfl, by decide⟩
theorem witness_CfgSotpSetsAutoReload : sL.cfg = .loaded 0x3A ∧ sL.cfg ≠ .notLoaded ∧ sN.cfg = .notLoaded ∧
    (st 0 (.loaded 0xBF) 0).cfg = .loaded 0xBF ∧
    exec (.cfgSotp true) sL = .next (afterAnswer 0 { sL with cfg := .loaded 0x38 }) ∧
    (0x0002#16).extractLsb' 1 15 ≠ 0 := ⟨rfl, by decide, rfl, rfl, rfl, by decide⟩
theorem witness_ReservedBitsArePreserved : sL.cfg = .loaded 0x3A ∧ (∀ x, decode 0x280001 ≠ .ok (.cfgLoad x)) ∧
    step (present 0x280001 sL) = .next (afterAnswer 0 { sL with cfg := .loaded 0x38 }) ∧
    decode 0x280001 = .ok (.cfgSotp true) ∧ decode 0x260003 = .ok (.cfgSres 3) ∧ decode 0x270001 = .ok (.cfgShtr true) ∧
    step (present 0xFFFFFF sL) = .next (afterRejection 0b01 sL) ∧ (afterRejection 0b01 sL).resp = rej 1 :=
  ⟨rfl, by decide, rfl, by decide, by decide, by decide, rfl, rfl⟩
theorem witness_CodecLaws_one_mutator : sL.cfg = .loaded 0x3A ∧ isMutator (.cfgSres 3) = true ∧
    exec (.cfgSres 3) sL = .next (afterAnswer 0 { sL with cfg := .loaded 0xBB }) ∧
    exec .cfgGhtr sL = .next (afterAnswer 0 sL) ∧ Instr.cfgGhtr ∈ [Instr.cfgGvdd, .cfgGhtr, .cfgGotp] :=
  ⟨rfl, rfl, rfl, rfl, by decide⟩
theorem witness_CodecLaws_two_mutators : mnemonicOf (.cfgSres 3) ≠ mnemonicOf (.cfgShtr true) ∧
    mnemonicOf (.cfgSres 3) = mnemonicOf (.cfgSres 0) ∧
    exec (.cfgSres 3) sL = .next (afterAnswer 0 { sL with cfg := .loaded 0xBB }) ∧
    exec (.cfgShtr true) (afterAnswer 0 { sL with cfg := .loaded 0xBB }) =
      .next (afterAnswer 0 { sL with cfg := .loaded 0xBF }) ∧
    exec (.cfgShtr true) sL = .next (afterAnswer 0 { sL with cfg := .loaded 0x3E }) :=
  ⟨by decide, rfl, rfl, rfl, rfl⟩
theorem witness_MutatorSequenceClosedForm : sL.cfg = .loaded 0x3A ∧
    ∀ m ∈ [Instr.cfgSres 3, .cfgShtr true, .cfgSotp true], isMutator m = true := by decide
theorem witness_RawKeepsTheLoadedReadOnlyBits : sL.cfg = .loaded 0x3A ∧
    ∀ w ∈ [0x260003#24, 0xFFFFFF], ∀ x, decode w ≠ .ok (.cfgLoad x) := by
  have h : decode 0x260003 = .ok (.cfgSres 3) := by decide
  have h' : decode 0xFFFFFF = .error .unknownOpcode := by decide
  refine ⟨rfl, fun w hw x hx => ?_⟩
  rcases List.mem_pair.1 hw with rfl | rfl
  · cases h.symm.trans hx
  · cases h'.symm.trans hx
theorem witness_DecTDecodesATemperature : 1 ≤ 16382 ∧ 16382 ≤ 16382 ∧ 3 < 4 ∧
    decodedResp .temperature (BitVec.ofNat 16 (4 * 16382 + 3)) = ⟨true, 0xFFF8, .normal, some 0x4300D93A⟩ := by
  decide +kernel
theorem witness_DecHDecodesAHumidity : 1 ≤ 16382 ∧ 16382 ≤ 16382 ∧ 3 < 4 ∧
    decodedResp .humidity (BitVec.ofNat 16 (4 * 16382 + 3)) = ⟨true, 0xFFF8, .normal, some 0x42EDF830⟩ := by
  decide +kernel
theorem witness_SentinelResponses :
    exec (.decT 0x0000) sL = .next { sL with resp := some ⟨true, 0, .errorLow, none⟩ } ∧
    exec (.decH 0xFFFF) sL = .next { sL with resp := some ⟨true, 0, .errorHigh, none⟩ } := ⟨rfl, rfl⟩
theorem witness_DecoderIsStateless : Instr.decH 3 ∈ [Instr.decT 3, .decH 3] ∧
    exec (.decH 0) sL = .next { sL with resp := some ⟨true, 0, .errorLow, none⟩ } := ⟨by decide, rfl⟩
/-- A tie, rounded to the even neighbour: 2^24 + 1 lies halfway between 2^24 and 2^24 + 2. -/
theorem witness_RoundingIsToNearestEven : 0 < 1 ∧ finite32 (fl32 16777217 1) = true ∧ finite32 0x4B800001 = true ∧
    fl32 16777217 1 = 0x4B800000 ∧ units32 0x4B800001 = 16777218 * 2 ^ 149 := by decide +kernel
theorem witness_ConversionIsStrictlyIncreasing : (valueOf 0x0003).toNat < (valueOf 0x0004).toNat ∧
    (valueOf 0xFFFB).toNat < (valueOf 0xFFFE).toNat := by decide

end Sys2Proof.Tests
end

section
/-! PROOFS. The registers at reset (spec/10_state.md R25). -/

namespace Sys2Proof.Machine

@[simp] theorem State.reset_crc : State.reset.crc = 0x00 := rfl
@[simp] theorem State.reset_cfg : State.reset.cfg = .notLoaded := rfl
@[simp] theorem State.reset_fault : State.reset.fault = 0b00 := rfl

/-- Settles O6: `CFG_VALID` is 0 because the reset value of `CFG` holds no byte; the other registers are fields of
`State.reset`. -/
theorem resetLeavesTheStatedRegisters : Obligations.ResetLeavesTheStatedRegisters :=
  ⟨State.reset_crc, cfgValid_of_notLoaded _ State.reset_cfg, State.reset_cfg, State.reset_fault⟩

end Sys2Proof.Machine
end

section
/-! PROOFS. Answers and rejections in the terms of the statements: the model's `respond` and `raise` against
`afterAnswer`, `afterRejection` and `RaisesIllegal` (spec/30_encoding.md R40, R45, spec/60_exceptions.md R83, R85). -/

namespace Sys2Proof.Machine

open Sys2Proof.Safety

variable (data : Word16) (s : State)

@[simp] theorem afterAnswer_crc : (afterAnswer data s).crc = s.crc := rfl
@[simp] theorem afterAnswer_cfg : (afterAnswer data s).cfg = s.cfg := rfl
@[simp] theorem afterAnswer_fault : (afterAnswer data s).fault = s.fault := rfl
@[simp] theorem afterAnswer_input : (afterAnswer data s).input = s.input := rfl
@[simp] theorem afterAnswer_resp : (afterAnswer data s).resp = some (executedResp data) := rfl

/-- A second answer replaces the first: only the response port is written. -/
@[simp] theorem afterAnswer_afterAnswer (first : Word16) :
    afterAnswer data (afterAnswer first s) = afterAnswer data s := rfl

theorem respond_eq : respond data s = .next (afterAnswer data s) := rfl

theorem raise_illegalCommand : raise .illegalCommand s = .next (afterRejection 0b01 s) := rfl

/-- A presented word that decodes to nothing is rejected in every state. -/
theorem raisesIllegal_of_decode {w : CmdWord} {e : DecodeError} (h : decode w = .error e) : RaisesIllegal w := by
  intro s
  rw [step_of_command (currentMove_present s w), h, consume_present]
  exact raise_illegalCommand s

/-- An opcode whose row of R41 is an `accept` rejects every operand that fails its test. -/
theorem raisesIllegal_of_accept {op : BitVec 8} {x : Word16} {unusedZero : Bool} {i : Instr}
    (hrow : decodeFields op x = accept unusedZero i) (hbits : unusedZero = false) : RaisesIllegal (op ++ x) :=
  raisesIllegal_of_decode (e := .unusedOperandBits) <| by rw [decode_append, hrow, hbits, accept_false]

end Sys2Proof.Machine
end

section
/-! PROOFS. CRC.INIT and CRC.VALUE (spec/40_checksum.md R49, R51). -/

namespace Sys2Proof.Machine

open Sys2Proof.Safety

theorem exec_crcInit (s : State) : exec .crcInit s = .next (afterAnswer 0x0000 (writeCrc 0x00 s)) :=
  respond_eq 0x0000 (writeCrc crcInitValue s)

theorem exec_crcValue (s : State) : exec .crcValue s = .next (afterAnswer (zext16 s.crc) s) :=
  respond_eq (zext16 s.crc) s

/-- Writing the value `CRC` already has changes nothing. -/
theorem writeCrc_self (s : State) : writeCrc s.crc s = s := rfl

theorem exec_crcValue_of_crc_zero {s : State} (h : s.crc = 0x00) :
    exec .crcValue s = .next (afterAnswer 0x0000 s) := by
  simp [exec_crcValue, h, zext16]

/-- CRC.VALUE repeated: it leaves `CRC` as it is, so the same answer is placed again. -/
theorem exec_crcValue_again {s t : State} (h : exec .crcValue s = .next t) : exec .crcValue t = .next t := by
  obtain rfl := Host.Outcome.next.inj ((exec_crcValue s).symm.trans h)
  rw [exec_crcValue, afterAnswer_crc, afterAnswer_afterAnswer]

/-- The upper byte of a zero-extended byte is zero. -/
theorem zext16_upper (b : Byte) : (zext16 b).extractLsb' 8 8 = 0x00 := by
  ext i hi
  simp [zext16]

/-- Settles O22: the meaning of CRC.INIT answers 0 over `writeCrc 0x00`, which is no change when `CRC` is 0 already; an
operand other than 0 fails the `accept` of its opcode. -/
theorem crcInitWritesZero : Obligations.CrcInitWritesZero := by
  refine ⟨exec_crcInit, fun s hzero => ?alreadyZero, rfl, by decide, fun x hx => ?illegal⟩
  case alreadyZero => rw [exec_crcInit, ← hzero, writeCrc_self]
  case illegal => exact raisesIllegal_of_accept (i := .crcInit) rfl (decide_eq_false hx)

/-- Settles O25: CRC.VALUE answers the zero extension of `CRC`, which is 0 after CRC.INIT and at reset; an operand other
than 0 fails the `accept` of its opcode. -/
theorem crcValueAnswersTheRemainder : Obligations.CrcValueAnswersTheRemainder := by
  refine ⟨exec_crcValue, fun s t hinit => ?afterInit, exec_crcValue_of_crc_zero State.reset_crc,
    fun s t r hvalue hr => ⟨?upperByte, exec_crcValue_again hvalue⟩, rfl, by decide, fun x hx => ?illegal⟩
  case afterInit =>
    obtain rfl := Host.Outcome.next.inj ((exec_crcInit s).symm.trans hinit)
    exact exec_crcValue_of_crc_zero (by rw [afterAnswer_crc, writeCrc_crc])
  case upperByte =>
    obtain rfl := Host.Outcome.next.inj ((exec_crcValue s).symm.trans hvalue)
    obtain rfl := Option.some.inj hr
    exact zext16_upper s.crc
  case illegal => exact raisesIllegal_of_accept (i := .crcValue) rfl (decide_eq_false hx)

end Sys2Proof.Machine
end

section
/-! PROOFS. What the nine commands of the codec do, said once each (spec/41_config_codec.md R57 to R66), and the byte
that any command leaves in `CFG` (R67). -/

namespace Sys2Proof.Machine

open Sys2Proof.Safety

theorem raise_configNotLoaded (s : State) : raise .configNotLoaded s = .next (afterRejection 0b10 s) := rfl

/-- Without a loaded byte each of the eight commands that need one is rejected (R57, R84). -/
theorem exec_of_notLoaded {i : Instr} {s : State} (hneeds : needsLoadedConfig i = true) (hcfg : s.cfg = .notLoaded) :
    exec i s = .next (afterRejection 0b10 s) := by
  rw [← raise_configNotLoaded]
  match i, hneeds with
  | .cfgRaw, _ | .cfgGres, _ | .cfgGvdd, _ | .cfgGhtr, _ | .cfgGotp, _ | .cfgSres _, _ | .cfgShtr _, _
  | .cfgSotp _, _ => exact requireCfg_notLoaded hcfg _

theorem exec_cfgLoad (b : Byte) (s : State) : exec (.cfgLoad b) s = .next (afterAnswer 0x0000 (writeCfg b s)) :=
  respond_eq 0x0000 (writeCfg b s)

section Loaded

variable {s : State} {b : Byte} (hcfg : s.cfg = .loaded b)
include hcfg

theorem exec_cfgRaw_of_loaded : exec .cfgRaw s = .next (afterAnswer (zext16 b) s) := requireCfg_loaded hcfg _

theorem exec_cfgGres_of_loaded : exec .cfgGres s = .next (afterAnswer (zext16 (resField b)) s) :=
  requireCfg_loaded hcfg _

theorem exec_cfgGvdd_of_loaded : exec .cfgGvdd s = .next (afterAnswer (zext16 (vddField b)) s) :=
  requireCfg_loaded hcfg _

theorem exec_cfgGhtr_of_loaded : exec .cfgGhtr s = .next (afterAnswer (zext16 (htrField b)) s) :=
  requireCfg_loaded hcfg _

theorem exec_cfgGotp_of_loaded : exec .cfgGotp s = .next (afterAnswer (zext16 (otpField b)) s) :=
  requireCfg_loaded hcfg _

theorem exec_cfgSres_of_loaded (code : BitVec 2) :
    exec (.cfgSres code) s = .next (afterAnswer 0x0000 (writeCfg (setRes code b) s)) := requireCfg_loaded hcfg _

theorem exec_cfgShtr_of_loaded (en : Bool) :
    exec (.cfgShtr en) s = .next (afterAnswer 0x0000 (writeCfg (setHtr en b) s)) := requireCfg_loaded hcfg _

theorem exec_cfgSotp_of_loaded (en : Bool) :
    exec (.cfgSotp en) s = .next (afterAnswer 0x0000 (writeCfg (setOtp en b) s)) := requireCfg_loaded hcfg _

/-- Writing the byte `CFG` already has changes nothing. -/
theorem writeCfg_self : writeCfg b s = s := by rw [writeCfg, ← hcfg]

end Loaded

/-- The byte a command leaves in a loaded `CFG`. -/
def cfgAfter : Instr → Byte → Byte
  | .cfgLoad byte, _ => byte
  | .cfgSres code, b => setRes code b
  | .cfgShtr en, b => setHtr en b
  | .cfgSotp en, b => setOtp en b
  | .crcInit, b | .crcAdd _, b | .crcValue, b | .cfgRaw, b | .cfgGres, b | .cfgGvdd, b | .cfgGhtr, b | .cfgGotp, b
  | .decT _, b | .decH _, b => b

theorem answer_keeps_cfg {r : Resp} {u t : State} (h : answer r u = .next t) : t.cfg = u.cfg := by
  rw [answer_next h]

theorem cfg_of_cfgLoad {b : Byte} {s t : State} (h : exec (.cfgLoad b) s = .next t) : t.cfg = .loaded b :=
  answer_keeps_cfg h

/-- `cfgAfter` is what `exec` does to a loaded `CFG`. -/
theorem exec_cfg {i : Instr} {s t : State} {b : Byte} (hcfg : s.cfg = .loaded b) (h : exec i s = .next t) :
    t.cfg = .loaded (cfgAfter i b) := by
  have loaded {k : Byte → StepResult} (hk : requireCfg s k = .next t) : k b = .next t := by
    rwa [requireCfg_loaded hcfg] at hk
  match i with
  | .crcInit | .crcAdd _ | .crcValue | .decT _ | .decH _ => exact (answer_keeps_cfg h).trans hcfg
  | .cfgLoad _ => exact cfg_of_cfgLoad h
  | .cfgRaw | .cfgGres | .cfgGvdd | .cfgGhtr | .cfgGotp => exact (answer_keeps_cfg (loaded h)).trans hcfg
  | .cfgSres _ | .cfgShtr _ | .cfgSotp _ => exact answer_keeps_cfg (loaded h)

/-- No command but CFG.LOAD changes VDD or the reserved bits (R58, R67). -/
theorem cfgAfter_readOnlyFields {i : Instr} (hload : isLoad i = false) (b : Byte) :
    vddField (cfgAfter i b) = vddField b ∧ reservedField (cfgAfter i b) = reservedField b := by
  match i, hload with
  | .crcInit, _ | .crcAdd _, _ | .crcValue, _ | .cfgRaw, _ | .cfgGres, _ | .cfgGvdd, _ | .cfgGhtr, _ | .cfgGotp, _
  | .decT _, _ | .decH _, _ => exact ⟨rfl, rfl⟩
  | .cfgSres code, _ => obtain ⟨-, hvdd, hreserved, -⟩ := setRes_fields code b; exact ⟨hvdd, hreserved⟩
  | .cfgShtr en, _ => obtain ⟨-, hvdd, hreserved, -⟩ := setHtr_fields en b; exact ⟨hvdd, hreserved⟩
  | .cfgSotp en, _ => obtain ⟨-, hvdd, hreserved, -⟩ := setOtp_fields en b; exact ⟨hvdd, hreserved⟩

/-- A presented word that is no CFG.LOAD, legal or not, keeps VDD and the reserved bits of a loaded byte (R67). -/
theorem step_present_readOnlyFields {w : CmdWord} {s t : State} {b : Byte} (hcfg : s.cfg = .loaded b)
    (hload : ∀ x, decode w ≠ .ok (.cfgLoad x)) (h : step (present w s) = .next t) :
    ∃ b', t.cfg = .loaded b' ∧ vddField b' = vddField b ∧ reservedField b' = reservedField b := by
  rw [step_of_command (currentMove_present s w), consume_present] at h
  cases hw : decode w with
  | error e =>
    rw [hw] at h
    obtain ⟨-, hkept, -⟩ := raise_next h
    exact ⟨b, hkept.trans hcfg, rfl, rfl⟩
  | ok i =>
    rw [hw] at h
    have hnoLoad : isLoad i = false := by
      cases i with
      | cfgLoad x => exact absurd hw (hload x)
      | _ => rfl
    exact ⟨cfgAfter i b, exec_cfg hcfg h, cfgAfter_readOnlyFields hnoLoad b⟩

end Sys2Proof.Machine
end

section
/-! PROOFS. CFG.LOAD (spec/41_config_codec.md R58). -/

namespace Sys2Proof.Machine

open Sys2Proof.Safety

/-- The word of CFG.LOAD is its opcode over the zero-extended byte. -/
theorem cfgLoad_word (b : Byte) : 0x2000#16 ++ b = 0x20#8 ++ zext16 b := by
  rw [zext16, BitVec.setWidth_eq_append (by decide)]
  exact BitVec.append_assoc (x₁ := 0x20#8) (x₂ := 0x00#8)

/-- The lower byte of a zero-extended byte is the byte. -/
theorem zext16_lower (b : Byte) : (zext16 b).extractLsb' 0 8 = b := by
  rw [zext16, BitVec.extractLsb'_setWidth_of_le (by decide), BitVec.extractLsb'_eq_self]

theorem decode_cfgLoad (b : Byte) : decode (0x2000#16 ++ b) = .ok (.cfgLoad b) := by
  have hrow (x : Word16) : decodeFields 0x20#8 x = accept (x.extractLsb' 8 8 = 0) (.cfgLoad (x.extractLsb' 0 8)) := rfl
  rw [cfgLoad_word, decode_append, hrow, zext16_upper, zext16_lower, decide_eq_true rfl, accept_true]

/-- `CFG[6:3]` is VDD above the reserved bits. -/
theorem readOnlyBits_eq (b : Byte) : b.extractLsb' 3 4 = vddField b ++ reservedField b :=
  (BitVec.extractLsb'_append_extractLsb'_eq_extractLsb' (len₁ := 3) (len₂ := 1) rfl).symm

/-- Settles O31: CFG.LOAD answers over `writeCfg b`; every other command keeps the two fields that `CFG[6:3]` is made
of; an operand with a bit above its byte fails the `accept` of the opcode. -/
theorem cfgLoadTakesTheByte : Obligations.CfgLoadTakesTheByte := by
  refine ⟨exec_cfgLoad, fun i s t b hload hcfg h => ⟨cfgAfter i b, exec_cfg hcfg h, ?readOnly⟩,
    fun b => ⟨rfl, decode_cfgLoad b⟩, fun x hx => ?illegal⟩
  case readOnly =>
    obtain ⟨hvdd, hreserved⟩ := cfgAfter_readOnlyFields hload b
    rw [readOnlyBits_eq, readOnlyBits_eq, hvdd, hreserved]
  case illegal => exact raisesIllegal_of_accept (i := .cfgLoad (x.extractLsb' 0 8)) rfl (decide_eq_false hx)

end Sys2Proof.Machine
end

section
/-! PROOFS. The commands that read the configuration byte (spec/41_config_codec.md R59 to R63). -/

namespace Sys2Proof.Machine

open Sys2Proof.Safety

/-- A field of one bit is that bit. -/
theorem extractLsb'_one {n : Nat} (x : BitVec n) (k : Nat) : x.extractLsb' k 1 = BitVec.ofBool (x.getLsbD k) := by
  ext i hi
  obtain rfl : i = 0 := by omega
  simp

theorem resField_eq (b : Byte) : resField b = BitVec.ofBool (b.getLsbD 7) ++ BitVec.ofBool (b.getLsbD 0) := by
  rw [resField, extractLsb'_one, extractLsb'_one]

theorem vddField_eq (b : Byte) : vddField b = BitVec.ofBool (b.getLsbD 6) := extractLsb'_one b 6

theorem htrField_eq (b : Byte) : htrField b = BitVec.ofBool (b.getLsbD 2) := extractLsb'_one b 2

theorem otpField_eq (b : Byte) : otpField b = BitVec.ofBool (!b.getLsbD 1) := by
  rw [otpField, extractLsb'_one]; cases b.getLsbD 1 <;> rfl

/-- Settles O32: CFG.RAW answers the zero extension of the byte, and CFG.LOAD leaves its own byte loaded. -/
theorem cfgRawAnswersTheByte : Obligations.CfgRawAnswersTheByte := by
  refine ⟨fun s b hcfg => exec_cfgRaw_of_loaded hcfg, fun s t b hload =>
    exec_cfgRaw_of_loaded (cfg_of_cfgLoad hload), fun s hcfg => exec_of_notLoaded rfl hcfg, rfl, by decide,
    fun x hx => ?illegal⟩
  case illegal => exact raisesIllegal_of_accept (i := .cfgRaw) rfl (decide_eq_false hx)

/-- Settles O33: CFG.GRES answers the field RES, which is bit 7 above bit 0. -/
theorem cfgGresAnswersTheResolution : Obligations.CfgGresAnswersTheResolution := by
  refine ⟨fun s b hcfg => ?loaded, fun s hcfg => exec_of_notLoaded rfl hcfg, rfl, rfl, rfl, rfl, rfl, by decide,
    fun x hx => ?illegal⟩
  case loaded => rw [← resField_eq]; exact exec_cfgGres_of_loaded hcfg
  case illegal => exact raisesIllegal_of_accept (i := .cfgGres) rfl (decide_eq_false hx)

/-- Settles O34: CFG.GVDD answers the field VDD, which is bit 6; CFG.LOAD leaves its own byte loaded, and a word that is
no CFG.LOAD keeps VDD whether it is executed or rejected. -/
theorem cfgGvddAnswersTheSupplyVoltage : Obligations.CfgGvddAnswersTheSupplyVoltage := by
  have answers {s : State} {b : Byte} (hcfg : s.cfg = .loaded b) : exec .cfgGvdd s =
      .next (afterAnswer ((BitVec.ofBool (b.getLsbD 6)).setWidth 16) s) := by
    rw [← vddField_eq]; exact exec_cfgGvdd_of_loaded hcfg
  refine ⟨fun s b hcfg => answers hcfg, fun s hcfg => exec_of_notLoaded rfl hcfg, rfl, rfl,
    fun s t b hload => answers (cfg_of_cfgLoad hload), fun w s t b hcfg hload h => ?kept, rfl, by decide,
    fun x hx => ?illegal⟩
  case kept =>
    obtain ⟨b', hcfg', hvdd, -⟩ := step_present_readOnlyFields hcfg hload h
    rw [vddField_eq, vddField_eq] at hvdd
    exact ⟨b', hcfg', BitVec.ofBool_eq_iff_eq.1 hvdd⟩
  case illegal => exact raisesIllegal_of_accept (i := .cfgGvdd) rfl (decide_eq_false hx)

/-- Settles O35: CFG.GHTR answers the field HTR, which is bit 2. -/
theorem cfgGhtrAnswersTheHeater : Obligations.CfgGhtrAnswersTheHeater := by
  refine ⟨fun s b hcfg => ?loaded, fun s hcfg => exec_of_notLoaded rfl hcfg, rfl, by decide, fun x hx => ?illegal⟩
  case loaded => rw [← htrField_eq]; exact exec_cfgGhtr_of_loaded hcfg
  case illegal => exact raisesIllegal_of_accept (i := .cfgGhtr) rfl (decide_eq_false hx)

/-- Settles O36: CFG.GOTP answers the inverse of bit 1; the two examples are that field of 0x3A and of 0xBD. -/
theorem cfgGotpAnswersAutoReload : Obligations.CfgGotpAnswersAutoReload := by
  refine ⟨fun s b hcfg => ?loaded, fun s hcfg => exec_of_notLoaded rfl hcfg, fun s hcfg => exec_cfgGotp_of_loaded hcfg,
    fun s hcfg => exec_cfgGotp_of_loaded hcfg, rfl, by decide, fun x hx => ?illegal⟩
  case loaded => rw [← otpField_eq]; exact exec_cfgGotp_of_loaded hcfg
  case illegal => exact raisesIllegal_of_accept (i := .cfgGotp) rfl (decide_eq_false hx)

end Sys2Proof.Machine
end

section
/-! PROOFS. The commands that change the configuration byte (spec/41_config_codec.md R64 to R66): each in the masked form
of its pseudocode, and what it does when the field already has the value. -/

namespace Sys2Proof.Machine

open Sys2Proof.Safety

/-! The masks of R64 to R66 clear exactly the bits that the field then fills. Like the laws of the fields above, this is
a finite fact about the operand and the byte. -/

theorem setRes_eq_masked : ∀ (code : BitVec 2) (b : Byte), setRes code b =
    (b &&& 0x7E#8) ||| ((code.extractLsb' 1 1).setWidth 8 <<< 7) ||| (code.extractLsb' 0 1).setWidth 8 := by
  decide +kernel

theorem setHtr_eq_masked : ∀ (en : Bool) (b : Byte), setHtr en b =
    (b &&& 0xFB#8) ||| ((BitVec.ofBool en).setWidth 8 <<< 2) := by decide +kernel

theorem setOtp_eq_masked : ∀ (en : Bool) (b : Byte), setOtp en b =
    (b &&& 0xFD#8) ||| ((BitVec.ofBool (!en)).setWidth 8 <<< 1) := by decide +kernel

/-- Setting the resolution the byte already has changes no field. -/
theorem setRes_resField (b : Byte) : setRes (resField b) b = b := by
  obtain ⟨hres, hvdd, hreserved, hhtr, hotp⟩ := setRes_fields (resField b) b
  exact cfg_ext _ _ hres hvdd hreserved hhtr hotp

/-- Setting the heater bit the byte already has changes no field. -/
theorem setHtr_of_htrField {en : Bool} {b : Byte} (h : htrField b = BitVec.ofBool en) : setHtr en b = b := by
  obtain ⟨hres, hvdd, hreserved, hhtr, hotp⟩ := setHtr_fields en b
  exact cfg_ext _ _ hres hvdd hreserved (hhtr.trans h.symm) hotp

/-- Setting the auto-reload the byte already has changes no field. -/
theorem setOtp_of_otpField {en : Bool} {b : Byte} (h : otpField b = BitVec.ofBool en) : setOtp en b = b := by
  obtain ⟨hres, hvdd, hreserved, hhtr, hotp⟩ := setOtp_fields en b
  exact cfg_ext _ _ hres hvdd hreserved hhtr (hotp.trans h.symm)

theorem setHtr_setHtr (en : Bool) (b : Byte) : setHtr en (setHtr en b) = setHtr en b := by
  obtain ⟨-, -, -, hhtr, -⟩ := setHtr_fields en b
  exact setHtr_of_htrField hhtr

theorem setOtp_setOtp (en : Bool) (b : Byte) : setOtp en (setOtp en b) = setOtp en b := by
  obtain ⟨-, -, -, -, hotp⟩ := setOtp_fields en b
  exact setOtp_of_otpField hotp

/-- A command that writes an idempotent function of the byte leaves, repeated, the state and the response as they are. -/
theorem exec_again_of_idempotent {i : Instr} {f : Byte → Byte}
    (hexec : ∀ {s : State} {b : Byte}, s.cfg = .loaded b → exec i s = .next (afterAnswer 0x0000 (writeCfg (f b) s)))
    (hidem : ∀ b, f (f b) = f b) {s t : State} (hloaded : s.cfg ≠ .notLoaded) (h : exec i s = .next t) :
    exec i t = .next t := by
  cases hcfg : s.cfg with
  | notLoaded => exact absurd hcfg hloaded
  | loaded b =>
    obtain rfl := Host.Outcome.next.inj ((hexec hcfg).symm.trans h)
    have hcfg' : (afterAnswer 0x0000 (writeCfg (f b) s)).cfg = .loaded (f b) := rfl
    rw [hexec hcfg', hidem, writeCfg_self hcfg', afterAnswer_afterAnswer]

/-- Settles O37: CFG.SRES writes `setRes code` of the byte, which is the byte itself for the code it already has. -/
theorem cfgSresSetsTheResolution : Obligations.CfgSresSetsTheResolution := by
  refine ⟨fun code s b hcfg => ?masked, fun s b hcfg => ?noChange, fun code s hcfg => exec_of_notLoaded rfl hcfg,
    by decide, fun x hx => ?illegal⟩
  case masked => rw [← setRes_eq_masked]; exact exec_cfgSres_of_loaded hcfg code
  case noChange => rw [← resField_eq, exec_cfgSres_of_loaded hcfg, setRes_resField, writeCfg_self hcfg]
  case illegal => exact raisesIllegal_of_accept (i := .cfgSres (x.extractLsb' 0 2)) rfl (decide_eq_false hx)

/-- Settles O38: CFG.SHTR writes `setHtr en` of the byte, and `setHtr en` is idempotent. -/
theorem cfgShtrSetsTheHeater : Obligations.CfgShtrSetsTheHeater := by
  refine ⟨fun en s b hcfg => ?masked, fun en s t => ?again, fun en s hcfg => exec_of_notLoaded rfl hcfg, by decide,
    fun x hx => ?illegal⟩
  case masked => rw [← setHtr_eq_masked]; exact exec_cfgShtr_of_loaded hcfg en
  case again => exact exec_again_of_idempotent (fun hcfg => exec_cfgShtr_of_loaded hcfg en) (setHtr_setHtr en)
  case illegal => exact raisesIllegal_of_accept (i := .cfgShtr (x.getLsbD 0)) rfl (decide_eq_false hx)

/-- Settles O39: CFG.SOTP writes `setOtp en` of the byte, and `setOtp en` is idempotent; 0xBF has auto-reload disabled,
so OFF changes nothing there. -/
theorem cfgSotpSetsAutoReload : Obligations.CfgSotpSetsAutoReload := by
  refine ⟨fun en s b hcfg => ?masked, fun en s t => ?again,
    fun s hcfg => ⟨exec_cfgSotp_of_loaded hcfg true, ?alreadyOff⟩, fun en s hcfg => exec_of_notLoaded rfl hcfg,
    by decide, fun x hx => ?illegal⟩
  case masked => rw [← setOtp_eq_masked]; exact exec_cfgSotp_of_loaded hcfg en
  case again => exact exec_again_of_idempotent (fun hcfg => exec_cfgSotp_of_loaded hcfg en) (setOtp_setOtp en)
  case alreadyOff =>
    have hoff : otpField 0xBF = BitVec.ofBool false := rfl
    rw [exec_cfgSotp_of_loaded hcfg, setOtp_of_otpField hoff, writeCfg_self hcfg]
  case illegal => exact raisesIllegal_of_accept (i := .cfgSotp (x.getLsbD 0)) rfl (decide_eq_false hx)

end Sys2Proof.Machine
end

section
/-! PROOFS. The class and the value of a raw word (spec/42_reading_decoder.md R71, R72). -/

namespace Sys2Proof.Machine

theorem classify_eq (raw : Word16) :
    classify raw = if raw = 0x0000 then .errorLow else if raw = 0xFFFF then .errorHigh else .normal := rfl

@[simp] theorem classify_low : classify 0x0000 = .errorLow := rfl
@[simp] theorem classify_high : classify 0xFFFF = .errorHigh := rfl

theorem classify_of_ne {raw : Word16} (hlow : raw ≠ 0x0000) (hhigh : raw ≠ 0xFFFF) : classify raw = .normal := by
  rw [classify_eq, if_neg hlow, if_neg hhigh]

/-- Every word is one of the two sentinels or normal. -/
theorem rawWord_cases (raw : Word16) : raw = 0x0000 ∨ raw = 0xFFFF ∨ classify raw = .normal := by
  by_cases hlow : raw = 0x0000
  · exact .inl hlow
  · by_cases hhigh : raw = 0xFFFF
    · exact .inr (.inl hhigh)
    · exact .inr (.inr (classify_of_ne hlow hhigh))

theorem classify_eq_errorLow_iff {raw : Word16} : classify raw = .errorLow ↔ raw = 0x0000 := by
  refine ⟨fun h => ?_, fun h => h ▸ classify_low⟩
  rcases rawWord_cases raw with hlow | rfl | hnormal
  · exact hlow
  · cases h
  · cases hnormal.symm.trans h

theorem classify_eq_errorHigh_iff {raw : Word16} : classify raw = .errorHigh ↔ raw = 0xFFFF := by
  refine ⟨fun h => ?_, fun h => h ▸ classify_high⟩
  rcases rawWord_cases raw with rfl | hhigh | hnormal
  · cases h
  · exact hhigh
  · cases hnormal.symm.trans h

/-- The value is the upper 14 bits of the word over two zero bits. -/
theorem valueOf_eq_append (raw : Word16) : valueOf raw = raw.extractLsb' 2 14 ++ 0#2 := by
  ext i hi
  change _ = (raw.extractLsb' 2 14 ++ 0#2 : BitVec (14 + 2))[i]
  simp only [valueOf, valueMask, BitVec.getElem_and, BitVec.getElem_append]
  interval_cases i <;> simp

/-- Every 14 bits over two zero bits are a value: that of the word itself. -/
theorem valueOf_append_zero (v : BitVec 14) : valueOf (v ++ 0#2) = v ++ 0#2 := by
  rw [valueOf_eq_append, BitVec.extractLsb'_append_eq_left]

theorem valueOf_toNat (raw : Word16) : (valueOf raw).toNat = 4 * (raw.toNat / 4) := by
  rw [valueOf_eq_append, BitVec.toNat_append]
  simp [Nat.shiftRight_eq_div_pow, Nat.shiftLeft_eq]
  omega

theorem range_valueOf : Set.range valueOf = Set.range fun v : BitVec 14 => (v ++ 0#2 : Word16) := by
  refine Set.Subset.antisymm ?_ ?_
  · rintro _ ⟨raw, rfl⟩
    exact ⟨raw.extractLsb' 2 14, (valueOf_eq_append raw).symm⟩
  · rintro _ ⟨v, rfl⟩
    exact ⟨v ++ 0#2, valueOf_append_zero v⟩

theorem append_zero_injective : Function.Injective fun v : BitVec 14 => (v ++ 0#2 : Word16) := fun v v' h => by
  have hupper : (v ++ 0#2).extractLsb' 2 14 = (v' ++ 0#2).extractLsb' 2 14 := congrArg (BitVec.extractLsb' 2 14) h
  rwa [BitVec.extractLsb'_append_eq_left, BitVec.extractLsb'_append_eq_left] at hupper

theorem natCard_bitVec (n : Nat) : Nat.card (BitVec n) = 2 ^ n := by
  rw [Nat.card_congr BitVec.equivFin.toEquiv, Nat.card_fin]

/-- Settles O45: the value is the upper 14 bits of the word over two zero bits, so its number is the word's rounded down
to a multiple of 4, and there is one value for each choice of 14 bits. -/
theorem valueOfANormalReading : Obligations.ValueOfANormalReading := by
  refine ⟨fun raw => ⟨rfl, ?upper, ?lower, ?multiple, ?bound⟩, ?count⟩
  case upper => rw [valueOf_eq_append, BitVec.extractLsb'_append_eq_left]
  case lower => rw [valueOf_eq_append, BitVec.extractLsb'_append_eq_right]; rfl
  case multiple => rw [valueOf_toNat, Nat.mul_mod_right]
  case bound => rw [valueOf_toNat]; omega
  case count => rw [range_valueOf, Set.ncard_range_of_injective append_zero_injective, natCard_bitVec]; norm_num

end Sys2Proof.Machine
end

section
/-! PROOFS. The response of a decode (spec/42_reading_decoder.md R71, R76 to R78), for both kinds at once. -/

namespace Sys2Proof.Machine

theorem exec_decT (raw : Word16) (s : State) :
    exec (.decT raw) s = .next { s with resp := some (decodedResp .temperature raw) } := rfl

theorem exec_decH (raw : Word16) (s : State) :
    exec (.decH raw) s = .next { s with resp := some (decodedResp .humidity raw) } := rfl

variable (kind : MeasurementKind)

@[simp] theorem decodedResp_low : decodedResp kind 0x0000 = ⟨true, 0x0000, .errorLow, none⟩ := rfl
@[simp] theorem decodedResp_high : decodedResp kind 0xFFFF = ⟨true, 0x0000, .errorHigh, none⟩ := rfl

theorem decodedResp_of_normal {raw : Word16} (h : classify raw = .normal) :
    decodedResp kind raw = ⟨true, valueOf raw, .normal, some (phys32 kind (valueOf raw))⟩ := by
  rw [decodedResp, h]

theorem decodedResp_cls (raw : Word16) : (decodedResp kind raw).cls = classify raw := by
  rcases rawWord_cases raw with rfl | rfl | hnormal
  · rfl
  · rfl
  · rw [decodedResp_of_normal kind hnormal, hnormal]

/-- The response word by word, as R76 and R77 write it. -/
theorem decodedResp_eq (raw : Word16) : decodedResp kind raw =
    if raw = 0x0000 then ⟨true, 0x0000, .errorLow, none⟩
    else if raw = 0xFFFF then ⟨true, 0x0000, .errorHigh, none⟩
    else ⟨true, raw &&& 0xFFFC, .normal, some (phys32 kind (raw &&& 0xFFFC))⟩ := by
  split
  case isTrue hlow => rw [hlow, decodedResp_low]
  case isFalse hlow =>
    split
    case isTrue hhigh => rw [hhigh, decodedResp_high]
    case isFalse hhigh => exact decodedResp_of_normal kind (classify_of_ne hlow hhigh)

/-- The four words that differ in their status bits only have one response, but in the lowest and the highest group,
where the sentinels are (R76). -/
theorem decodedResp_statusBits {k j : Nat} (hk : 1 ≤ k) (hk' : k ≤ 16382) (hj : j < 4) :
    decodedResp kind (BitVec.ofNat 16 (4 * k + j)) = decodedResp kind (BitVec.ofNat 16 (4 * k)) := by
  have normal {i : Nat} (hi : i < 4) : classify (BitVec.ofNat 16 (4 * k + i)) = .normal :=
    classify_of_ne (by bv_omega) (by bv_omega)
  have hvalue : valueOf (BitVec.ofNat 16 (4 * k + j)) = valueOf (BitVec.ofNat 16 (4 * k)) := by
    refine BitVec.eq_of_toNat_eq ?_
    rw [valueOf_toNat, valueOf_toNat, BitVec.toNat_ofNat, BitVec.toNat_ofNat]
    omega
  have hfirst : classify (BitVec.ofNat 16 (4 * k)) = .normal := normal (i := 0) (by decide)
  rw [decodedResp_of_normal kind (normal hj), decodedResp_of_normal kind hfirst, hvalue]

/-- What stands at the response port after a decode command is the response of its kind. -/
theorem resp_of_dec {raw : Word16} {s t : State} {r : Resp}
    (h : exec (.decT raw) s = .next t ∨ exec (.decH raw) s = .next t) (hr : t.resp = some r) :
    ∃ kind, r = decodedResp kind raw := by
  rcases h with hT | hH
  · obtain rfl := answer_next hT
    exact ⟨.temperature, (Option.some.inj hr).symm⟩
  · obtain rfl := answer_next hH
    exact ⟨.humidity, (Option.some.inj hr).symm⟩

/-- Settles O44: each error class is that of one sentinel alone, and the response of either decode command has the class
of its word. The words beside the sentinels are taken one by one, since `decide` on the bounded statement would go
through all 65536 words. -/
theorem classificationOfRawWords : Obligations.ClassificationOfRawWords := by
  refine ⟨classify_eq, fun raw => ⟨classify_eq_errorLow_iff, classify_eq_errorHigh_iff⟩, ?lowestGroup, ?highestGroup,
    fun s raw => ⟨_, _, _, _, exec_decT raw s, exec_decH raw s, rfl, rfl, ?temperature, ?humidity, rfl, rfl, rfl⟩⟩
  case lowestGroup =>
    simp only [List.forall_mem_cons, List.not_mem_nil, false_imp_iff, forall_const]
    decide
  case highestGroup =>
    simp only [List.forall_mem_cons, List.not_mem_nil, false_imp_iff, forall_const]
    decide
  case temperature => exact decodedResp_cls .temperature raw
  case humidity => exact decodedResp_cls .humidity raw

/-- Settles O48: a response with a sentinel's class is that of the sentinel word itself, which holds no value. -/
theorem sentinelResponses : Obligations.SentinelResponses := by
  intro raw s t r h hr
  obtain ⟨kind, rfl⟩ := resp_of_dec h hr
  rw [decodedResp_cls, classify_eq_errorLow_iff, classify_eq_errorHigh_iff]
  refine ⟨?fillers, ?low, ?high⟩
  case fillers =>
    rintro (rfl | rfl) <;> exact ⟨rfl, rfl, rfl, rfl⟩
  case low => rintro rfl; exact ⟨rfl, rfl⟩
  case high => rintro rfl; exact ⟨rfl, rfl⟩

end Sys2Proof.Machine
end

section
/-! PROOFS. DEC.T and DEC.H (spec/42_reading_decoder.md R76, R77). -/

namespace Sys2Proof.Machine

theorem decode_decT (raw : Word16) : decode (0x30#8 ++ raw) = .ok (.decT raw) := decode_append 0x30#8 raw

theorem decode_decH (raw : Word16) : decode (0x31#8 ++ raw) = .ok (.decH raw) := decode_append 0x31#8 raw

/-! R74's conversion at the two ends of the range and at the words of the two examples. -/

theorem phys32_temperature_values : phys32 .temperature 0x0000 = 0xC23B6666 ∧ phys32 .temperature 0xFFFC = 0x4300DBFA ∧
    phys32 .temperature 0x4E84 = 0x40E16550 := by decide +kernel

theorem phys32_humidity_values : phys32 .humidity 0x0000 = 0xC0C00000 ∧ phys32 .humidity 0xFFFC = 0x42EDFC18 ∧
    phys32 .humidity 0x6838 = 0x42338D60 := by decide +kernel

/-- Settles O46: DEC.T answers the response of kind temperature, and its opcode is the row of R41 that takes every
operand. -/
theorem decTDecodesATemperature : Obligations.DecTDecodesATemperature := by
  obtain ⟨hlowest, hhighest, hexample⟩ := phys32_temperature_values
  refine ⟨fun raw s => ?answer, fun raw => ⟨rfl, decode_decT raw⟩, hlowest, hhighest, fun k j s hk hk' hj => ?group,
    fun s => ?sampleWord⟩
  case answer => rw [exec_decT, decodedResp_eq]
  case group => rw [exec_decT, exec_decT, decodedResp_statusBits _ hk hk' hj]
  case sampleWord =>
    have hvalue : valueOf 0x4E85 = 0x4E84 := rfl
    rw [exec_decT, decodedResp_of_normal _ (by decide), hvalue, hexample]

/-- Settles O47: DEC.H answers the response of kind humidity, and its opcode is the row of R41 that takes every
operand. -/
theorem decHDecodesAHumidity : Obligations.DecHDecodesAHumidity := by
  obtain ⟨hlowest, hhighest, hexample⟩ := phys32_humidity_values
  refine ⟨fun raw s => ?answer, fun raw => ⟨rfl, decode_decH raw⟩, hlowest, hhighest, fun k j s hk hk' hj => ?group,
    fun s => ?sampleWord⟩
  case answer => rw [exec_decH, decodedResp_eq]
  case group => rw [exec_decH, exec_decH, decodedResp_statusBits _ hk hk' hj]
  case sampleWord =>
    have hvalue : valueOf 0x683A = 0x6838 := rfl
    rw [exec_decH, decodedResp_of_normal _ (by decide), hvalue, hexample]

end Sys2Proof.Machine
end

section
/-! PROOFS. The reading decoder keeps no state (spec/42_reading_decoder.md R79): a decode command writes the response
port only, and no command reads that port (R6, R13). -/

namespace Sys2Proof.Machine

/-- What stood at the response port before a command has no part in what the command does. -/
theorem exec_ignores_resp (i : Instr) (s : State) (r : Option Resp) : exec i { s with resp := r } = exec i s := by
  match i with
  | .crcInit | .crcAdd _ | .crcValue | .cfgLoad _ | .decT _ | .decH _ => rfl
  | .cfgRaw | .cfgGres | .cfgGvdd | .cfgGhtr | .cfgGotp | .cfgSres _ | .cfgShtr _ | .cfgSotp _ => rfl

/-- The response of a decode command, as a function of the command alone. The decoder answers no command of another unit,
so the value there is of no importance. -/
def decoderResp : Instr → Resp
  | .decT raw => decodedResp .temperature raw
  | .decH raw => decodedResp .humidity raw
  | _ => executedResp 0x0000

theorem exec_of_decode {raw : Word16} {d : Instr} (hd : d ∈ [Instr.decT raw, .decH raw]) (s : State) :
    exec d s = .next { s with resp := some (decoderResp d) } := by
  rcases List.mem_pair.1 hd with rfl | rfl
  · exact exec_decT raw s
  · exact exec_decH raw s

/-- Settles O49: `decoderResp` is the function of the command; the state after a decode command differs from the one
before at the response port only, which the next command does not read. -/
theorem decoderIsStateless : Obligations.DecoderIsStateless := by
  refine ⟨decoderResp, fun raw d hd => ⟨exec_of_decode hd, fun s t i h => ?next⟩⟩
  obtain rfl := Host.Outcome.next.inj ((exec_of_decode hd s).symm.trans h)
  exact exec_ignores_resp i s _

end Sys2Proof.Machine
end

section
/-! PROOFS. What a presented word does, said once for every word and state: the cause it raises, with decoding before
the `CFG_VALID` check (spec/60_exceptions.md R83, R84, R86), and the next state, whatever `FAULT` holds (R85, R88). -/

namespace Sys2Proof.Machine

open Sys2Proof.Safety

theorem cfgValid_eq_true_iff {s : State} : cfgValid s = true ↔ ∃ b, s.cfg = .loaded b := by
  refine ⟨fun h => ?_, fun ⟨b, hcfg⟩ => cfgValid_of_loaded s b hcfg⟩
  cases hcfg : s.cfg with
  | notLoaded => cases (cfgValid_of_notLoaded s hcfg).symm.trans h
  | loaded b => exact ⟨b, rfl⟩

theorem cfgValid_eq_false_iff {s : State} : cfgValid s = false ↔ s.cfg = .notLoaded := by
  refine ⟨fun h => ?_, cfgValid_of_notLoaded s⟩
  cases hcfg : s.cfg with
  | notLoaded => rfl
  | loaded b => cases (cfgValid_of_loaded s b hcfg).symm.trans h

/-- A command whose precondition holds is executed: its response has `ok`, at most `CRC` and `CFG` change, and `FAULT`,
whatever it holds, is kept and has no part in any of this (R88). -/
theorem exec_executed {i : Instr} {s : State} (h : needsLoadedConfig i = true → cfgValid s = true) :
    ∃ crc cfg r, r.ok = true ∧
      ∀ f, exec i { s with fault := f } = .next { s with fault := f, crc := crc, cfg := cfg, resp := some r } := by
  obtain ⟨crc, cfg, fault, input, resp⟩ := s
  match i with
  | .crcInit => exact ⟨0x00, cfg, executedResp 0x0000, rfl, fun _ => rfl⟩
  | .crcAdd b => exact ⟨crc8Add crc b, cfg, executedResp 0x0000, rfl, fun _ => rfl⟩
  | .crcValue => exact ⟨crc, cfg, executedResp (zext16 crc), rfl, fun _ => rfl⟩
  | .cfgLoad b => exact ⟨crc, .loaded b, executedResp 0x0000, rfl, fun _ => rfl⟩
  | .decT raw => exact ⟨crc, cfg, decodedResp .temperature raw, decodedResp_ok _ _, fun _ => rfl⟩
  | .decH raw => exact ⟨crc, cfg, decodedResp .humidity raw, decodedResp_ok _ _, fun _ => rfl⟩
  | .cfgRaw | .cfgGres | .cfgGvdd | .cfgGhtr | .cfgGotp =>
    obtain ⟨b, rfl⟩ := cfgValid_eq_true_iff.1 (h rfl)
    exact ⟨crc, .loaded b, executedResp _, rfl, fun _ => rfl⟩
  | .cfgSres _ | .cfgShtr _ | .cfgSotp _ =>
    obtain ⟨b, rfl⟩ := cfgValid_eq_true_iff.1 (h rfl)
    exact ⟨crc, .loaded _, executedResp 0x0000, rfl, fun _ => rfl⟩

theorem step_present_of_decode {w : CmdWord} {i : Instr} (s : State) (h : decode w = .ok i) :
    step (present w s) = exec i s := by
  rw [step_of_command (currentMove_present s w), h, consume_present]

/-- The code of the cause that a presented word raises, zero for none (R86): a word that does not decode never reaches
the `CFG_VALID` check. -/
def raisedCode (w : CmdWord) (s : State) : BitVec 2 :=
  match decode w with
  | .error _ => 0b01
  | .ok i => if needsLoadedConfig i && !cfgValid s then 0b10 else 0b00

/-- Either the word does not decode, or it decodes to one of the eight commands while nothing is loaded, or it is to be
executed. -/
theorem raisedCode_cases (w : CmdWord) (s : State) :
    (raisedCode w s = 0b01 ∧ ∃ e, decode w = .error e) ∨
    (raisedCode w s = 0b10 ∧ ∃ i, decode w = .ok i ∧ needsLoadedConfig i = true ∧ s.cfg = .notLoaded) ∨
    (raisedCode w s = 0b00 ∧ ∃ i, decode w = .ok i ∧ (needsLoadedConfig i = true → cfgValid s = true)) := by
  cases hw : decode w with
  | error e => exact .inl ⟨by simp [raisedCode, hw], e, rfl⟩
  | ok i =>
    by_cases hraise : needsLoadedConfig i = true ∧ cfgValid s = false
    · obtain ⟨hneeds, hvalid⟩ := hraise
      exact .inr (.inl ⟨by simp [raisedCode, hw, hneeds, hvalid], i, rfl, hneeds, cfgValid_eq_false_iff.1 hvalid⟩)
    · have hmet : needsLoadedConfig i = true → cfgValid s = true := by simpa using hraise
      exact .inr (.inr ⟨by simpa [raisedCode, hw] using hmet, i, rfl, hmet⟩)

theorem raisedCode_eq_illegalCommand_iff {w : CmdWord} {s : State} :
    raisedCode w s = 0b01 ↔ ∃ e, decode w = .error e := by
  refine ⟨fun h => ?_, fun ⟨e, hw⟩ => by rw [raisedCode, hw]⟩
  rcases raisedCode_cases w s with ⟨-, hillegal⟩ | ⟨hcode, -⟩ | ⟨hcode, -⟩
  · exact hillegal
  · cases hcode.symm.trans h
  · cases hcode.symm.trans h

theorem raisedCode_eq_configNotLoaded_iff {w : CmdWord} {s : State} :
    raisedCode w s = 0b10 ↔ (∃ i, decode w = .ok i ∧ needsLoadedConfig i = true) ∧ cfgValid s = false := by
  refine ⟨fun h => ?_, fun ⟨⟨i, hw, hneeds⟩, hvalid⟩ => by simp [raisedCode, hw, hneeds, hvalid]⟩
  rcases raisedCode_cases w s with ⟨hcode, -⟩ | ⟨-, i, hw, hneeds, hcfg⟩ | ⟨hcode, -⟩
  · cases hcode.symm.trans h
  · exact ⟨⟨i, hw, hneeds⟩, cfgValid_of_notLoaded s hcfg⟩
  · cases hcode.symm.trans h

/-- A word that raises a cause is rejected with it (R85). -/
theorem step_present_of_raisedCode {w : CmdWord} {s : State} (h : raisedCode w s ≠ 0b00) :
    step (present w s) = .next (afterRejection (raisedCode w s) s) := by
  rcases raisedCode_cases w s with ⟨hcode, e, hw⟩ | ⟨hcode, i, hw, hneeds, hcfg⟩ | ⟨hcode, -⟩
  · rw [hcode, raisesIllegal_of_decode hw]
  · rw [hcode, step_present_of_decode s hw, exec_of_notLoaded hneeds hcfg]
  · exact absurd hcode h

/-- A word that raises no cause is executed. -/
theorem step_present_of_raisedCode_zero {w : CmdWord} {s : State} (h : raisedCode w s = 0b00) :
    ∃ crc cfg r, r.ok = true ∧ step (present w s) = .next { s with crc := crc, cfg := cfg, resp := some r } := by
  rcases raisedCode_cases w s with ⟨hcode, -⟩ | ⟨hcode, -⟩ | ⟨-, i, hw, hmet⟩
  · cases hcode.symm.trans h
  · cases hcode.symm.trans h
  · obtain ⟨crc, cfg, r, hok, hexec⟩ := exec_executed hmet
    exact ⟨crc, cfg, r, hok, (step_present_of_decode s hw).trans (hexec s.fault)⟩

/-- A response with `ok` reports no cause (R45). -/
theorem reportedCause_of_ok {r : Resp} (h : r.ok = true) : reportedCause r = 0b00 := if_pos h

/-- A rejection reports the cause it was made with (R45, R85). -/
theorem reportedCause_of_rejection (code : BitVec 2) :
    reportedCause ⟨false, code.setWidth 16, .noReading, none⟩ = code :=
  (BitVec.setWidth_setWidth_of_le code (by decide : 2 ≤ 16)).trans (BitVec.setWidth_eq code)

/-- Every presented word is answered; the response reports the cause raised, which is OR-ed into `FAULT` (R85, R88). -/
theorem step_present_response (w : CmdWord) (s : State) :
    ∃ t r, step (present w s) = .next t ∧ t.resp = some r ∧ reportedCause r = raisedCode w s ∧
      (r.ok = true ↔ raisedCode w s = 0b00) ∧ t.fault = s.fault ||| raisedCode w s := by
  by_cases hcode : raisedCode w s = 0b00
  · obtain ⟨crc, cfg, r, hok, hstep⟩ := step_present_of_raisedCode_zero hcode
    exact ⟨_, r, hstep, rfl, by rw [hcode, reportedCause_of_ok hok], iff_of_true hok hcode, by simp [hcode]⟩
  · exact ⟨_, _, step_present_of_raisedCode hcode, rfl, reportedCause_of_rejection _,
      iff_of_false Bool.false_ne_true hcode, rfl⟩

/-- A step is the rejection with a code exactly when that is the cause raised: the response tells which it was. -/
theorem step_present_eq_afterRejection_iff {w : CmdWord} {s : State} {code : BitVec 2} (hcode : code ≠ 0b00) :
    step (present w s) = .next (afterRejection code s) ↔ raisedCode w s = code := by
  refine ⟨fun h => ?_, ?_⟩
  · obtain ⟨t, r, hstep, hresp, hcause, -⟩ := step_present_response w s
    obtain rfl := Host.Outcome.next.inj (hstep.symm.trans h)
    obtain rfl := Option.some.inj hresp
    exact hcause.symm.trans (reportedCause_of_rejection code)
  · rintro rfl
    exact step_present_of_raisedCode hcode

end Sys2Proof.Machine
end

section
/-! PROOFS. `FAULT` over a sequence of command words (spec/60_exceptions.md R88). -/

namespace Sys2Proof.Machine

open Sys2Proof.Safety

theorem runWords_cons {w : CmdWord} {ws : List CmdWord} {s t u : State} {r : Resp} {rs : List Resp}
    (hstep : step (present w s) = .next t) (hresp : t.resp = some r) (hrun : runWords ws t = some (u, rs)) :
    runWords (w :: ws) s = some (u, r :: rs) := by
  simp [runWords, hstep, hresp, hrun]

/-- A command executed or rejected under one value of `FAULT` is so under every other, with the same effect (R88). -/
theorem exec_of_other_fault {i : Instr} {s t : State} (f : BitVec 2) (h : exec i s = .next t) :
    ∃ g, exec i { s with fault := f } = .next { t with fault := g } := by
  by_cases hmet : needsLoadedConfig i = true → cfgValid s = true
  · obtain ⟨crc, cfg, r, -, hexec⟩ := exec_executed hmet
    obtain rfl := Host.Outcome.next.inj ((hexec s.fault).symm.trans h)
    exact ⟨f, hexec f⟩
  · obtain ⟨hneeds, hvalid⟩ := Classical.not_imp.1 hmet
    have hcfg : s.cfg = .notLoaded := cfgValid_eq_false_iff.1 (Bool.eq_false_iff.2 hvalid)
    obtain rfl := Host.Outcome.next.inj ((exec_of_notLoaded hneeds hcfg).symm.trans h)
    exact ⟨f ||| 0b10, exec_of_notLoaded hneeds hcfg⟩

/-- Settles O16, by induction on the words with the state general: the first word ORs its cause into `FAULT`, and the
rest start from there. -/
theorem faultIsTheOrOfAllCauses : Obligations.FaultIsTheOrOfAllCauses := by
  refine ⟨fun ws => ?sequence, fun i s t f h => exec_of_other_fault f h⟩
  case sequence =>
    induction ws with
    | nil => exact fun s => ⟨s, [], rfl, rfl, rfl, by simp⟩
    | cons w ws ih =>
      intro s
      obtain ⟨t, r, hstep, hresp, hcause, hok, hfault⟩ := step_present_response w s
      obtain ⟨u, rs, hrun, hlength, hor, hzero⟩ := ih t
      have hfirst : t.fault = 0b00 ↔ s.fault = 0b00 ∧ r.ok = true := by
        rw [hfault, hok]; exact BitVec.or_eq_zero_iff
      refine ⟨u, r :: rs, runWords_cons hstep hresp hrun, congrArg (· + 1) hlength, ?or, ?zero⟩
      case or => rw [hor, hfault, ← hcause]; rfl
      case zero => rw [hzero, hfirst, List.forall_mem_cons, and_assoc]

end Sys2Proof.Machine
end

section
/-! PROOFS. The two exceptions (spec/60_exceptions.md R83 to R86). -/

namespace Sys2Proof.Machine

open Sys2Proof.Safety

/-- An operand with every bit set has an unused one set, for each opcode of the checksum unit and of the codec. -/
theorem decode_ones_illegal : ∀ op ∈ [0x10#8, 0x11, 0x12, 0x20, 0x21, 0x22, 0x23, 0x24, 0x25, 0x26, 0x27, 0x28],
    decode (op ++ 0xFFFF#16) = .error .unusedOperandBits := by decide

/-- Settles O12: the rejection with code 1 is what a step does exactly when 1 is the code raised, which is so for the
words that do not decode. -/
theorem illegalCommandExactlyWhenUndecoded : Obligations.IllegalCommandExactlyWhenUndecoded :=
  ⟨fun _ _ => (step_present_eq_afterRejection_iff (by decide)).trans raisedCode_eq_illegalCommand_iff,
    fun op hop => ⟨0xFFFF, raisesIllegal_of_decode (decode_ones_illegal op hop)⟩,
    fun x => ⟨⟨_, decode_decT x⟩, _, decode_decH x⟩⟩

/-- The host's move is reset only when it drives the reset input. -/
theorem input_of_reset {s : State} (h : currentMove s = .reset) : ∃ c rest, s.input = ⟨true, c⟩ :: rest := by
  match hinput : s.input with
  | ⟨true, c⟩ :: rest => exact ⟨c, rest, rfl⟩
  | [] | ⟨false, none⟩ :: _ | ⟨false, some _⟩ :: _ => simp [currentMove, moveOf, hinput] at h

/-- No step without reset makes a loaded `CFG` lose its byte (R84). -/
theorem step_keeps_cfgValid {s t : State} (hreset : ∀ c rest, s.input ≠ ⟨true, c⟩ :: rest) (h : step s = .next t)
    (hvalid : cfgValid s = true) : cfgValid t = true := by
  obtain ⟨b, hcfg⟩ := cfgValid_eq_true_iff.1 hvalid
  rw [cfgValid_eq_true_iff]
  rcases step_next_cases h with ⟨-, rfl⟩ | ⟨hmove, -⟩ | ⟨w, e, -, -, hraise⟩ | ⟨w, i, -, -, hexec⟩
  · exact ⟨b, hcfg⟩
  · obtain ⟨c, rest, hinput⟩ := input_of_reset hmove
    exact absurd hinput (hreset c rest)
  · obtain ⟨-, hkept, -⟩ := raise_next hraise
    exact ⟨b, hkept.trans hcfg⟩
  · exact ⟨_, exec_cfg (s := consume s) hcfg hexec⟩

/-- Settles O13: the rejection with code 2 is what a step does exactly when 2 is the code raised; CFG.LOAD leaves its
byte loaded, and every step but a reset keeps a loaded byte loaded. -/
theorem configNotLoadedExactlyWhen : Obligations.ConfigNotLoadedExactlyWhen := by
  refine ⟨fun w s => ?exactly, fun w b s hw => ?load, fun s t => step_keeps_cfgValid⟩
  case exactly => exact (step_present_eq_afterRejection_iff (by decide)).trans raisedCode_eq_configNotLoaded_iff
  case load =>
    exact ⟨_, (step_present_of_decode s hw).trans (exec_cfgLoad b s), cfgValid_of_loaded _ b rfl⟩

/-- Settles O14: `afterRejection` with the cause's code is the state that R85 writes out. -/
theorem rejectionChangesOnlyFault : Obligations.RejectionChangesOnlyFault :=
  ⟨fun _ _ s hw => raisesIllegal_of_decode hw s,
    fun _ _ s hw hneeds hcfg => (step_present_of_decode s hw).trans (exec_of_notLoaded hneeds hcfg)⟩

/-- A presented word leaves `FAULT` as it was or ORs in one cause, under that cause's condition (R86). -/
theorem step_present_fault {w : CmdWord} {s t : State} (h : step (present w s) = .next t) : t.fault = s.fault ∨
    (t.fault = s.fault ||| 0b01 ∧ ∃ e, decode w = .error e) ∨
    (t.fault = s.fault ||| 0b10 ∧ cfgValid s = false ∧ ∃ i, decode w = .ok i) := by
  obtain ⟨t', r, hstep, -, -, -, hfault⟩ := step_present_response w s
  obtain rfl := Host.Outcome.next.inj (hstep.symm.trans h)
  rw [hfault]
  rcases raisedCode_cases w s with ⟨hcode, hw⟩ | ⟨hcode, i, hw, -, hcfg⟩ | ⟨hcode, -⟩
  · exact .inr (.inl ⟨by rw [hcode], hw⟩)
  · exact .inr (.inr ⟨by rw [hcode], cfgValid_of_notLoaded s hcfg, i, hw⟩)
  · exact .inl (by rw [hcode]; exact BitVec.or_zero)

/-- Settles O15: each word raises the one code of `raisedCode` or none; CFG.SHTR with operand 2 does not decode, and with
operand 1 decodes to a command that needs a loaded byte; a step with reset does not look at its word. -/
theorem rejectionPriority : Obligations.RejectionPriority := by
  refine ⟨fun w s t => step_present_fault, fun w e s hw _ => raisesIllegal_of_decode hw s, ?illegal, ?notLoaded,
    fun w s => step_of_reset rfl⟩
  case illegal =>
    have hw : decode 0x270002 = .error .unusedOperandBits := by decide
    exact raisesIllegal_of_decode hw State.reset
  case notLoaded =>
    have hw : decode 0x270001 = .ok (.cfgShtr true) := by decide
    exact (step_present_of_decode State.reset hw).trans (exec_of_notLoaded rfl State.reset_cfg)

end Sys2Proof.Machine
end

section
/-! PROOFS. The reset input against a command presented with it, and what every other step keeps
(spec/70_reset_and_hazards.md R95). -/

namespace Sys2Proof.Machine

theorem currentMove_of_reset {s : State} {c : Option CmdWord} {rest : List PortInput} (h : s.input = ⟨true, c⟩ :: rest) :
    currentMove s = .reset := by
  simp [currentMove, moveOf, h]

/-- Recording an exception ORs its code into `FAULT`, so it clears no bit there (R88). -/
theorem raise_keeps_faultBits {cause : ExceptionCause} {s t : State} {k : Nat} (h : raise cause s = .next t)
    (hbit : s.fault.getLsbD k = true) : t.fault.getLsbD k = true := by
  obtain ⟨-, -, -, hfault, -⟩ := raise_next h
  rw [hfault, recordFault, BitVec.getLsbD_or, hbit, Bool.true_or]

/-- A command, executed or rejected, clears no bit of `FAULT`. -/
theorem exec_keeps_faultBits {i : Instr} {s t : State} {k : Nat} (h : exec i s = .next t)
    (hbit : s.fault.getLsbD k = true) : t.fault.getLsbD k = true := by
  rcases exec_next h with ⟨-, hraise⟩ | ⟨crc, cfg, r, -, rfl⟩
  · exact raise_keeps_faultBits hraise hbit
  · exact hbit

/-- No step without reset clears a bit of `FAULT` (R88, R95). -/
theorem step_keeps_faultBits {s t : State} {k : Nat} (hreset : ∀ c rest, s.input ≠ ⟨true, c⟩ :: rest)
    (h : step s = .next t) (hbit : s.fault.getLsbD k = true) : t.fault.getLsbD k = true := by
  rcases step_next_cases h with ⟨-, rfl⟩ | ⟨hmove, -⟩ | ⟨w, e, -, -, hraise⟩ | ⟨w, i, -, -, hexec⟩
  · exact hbit
  · obtain ⟨c, rest, hinput⟩ := input_of_reset hmove
    exact absurd hinput (hreset c rest)
  · exact raise_keeps_faultBits (s := consume s) hraise hbit
  · exact exec_keeps_faultBits (s := consume s) hexec hbit

/-- Settles O7: with `rst` the move is reset whatever word stands beside it, so the step is `applyReset`; in a step
without `rst`, the causes raised are OR-ed into `FAULT` and a loaded `CFG` stays loaded. -/
theorem resetInputWinsOverACommand : Obligations.ResetInputWinsOverACommand := by
  refine ⟨fun s c rest hinput => ?reset, fun s t hreset h => ?other⟩
  case reset => rw [step_of_reset (currentMove_of_reset hinput), applyReset, consume_input, hinput, List.tail_cons]; rfl
  case other => exact ⟨fun k => step_keeps_faultBits hreset h, step_keeps_cfgValid hreset h⟩

end Sys2Proof.Machine
end

section
/-! PROOFS. The encoding (spec/30_encoding.md R36 to R41): a command's word is its opcode over its operand, and the one
row that an opcode has in the table says which operands it takes. -/

namespace Sys2Proof

open Sys2Proof.Machine

/-- The opcode of each command (R39). -/
def Instr.opcode : Instr → BitVec 8
  | .crcInit => 0x10
  | .crcAdd _ => 0x11
  | .crcValue => 0x12
  | .cfgLoad _ => 0x20
  | .cfgRaw => 0x21
  | .cfgGres => 0x22
  | .cfgGvdd => 0x23
  | .cfgGhtr => 0x24
  | .cfgGotp => 0x25
  | .cfgSres _ => 0x26
  | .cfgShtr _ => 0x27
  | .cfgSotp _ => 0x28
  | .decT _ => 0x30
  | .decH _ => 0x31

/-- A byte under a zero byte is its zero extension. -/
theorem append_zero_append_byte (op : BitVec 8) (b : Byte) : (op ++ 0x00#8) ++ b = op ++ zext16 b := by
  rw [zext16, BitVec.setWidth_eq_append (by decide)]
  exact BitVec.append_assoc (x₁ := op) (x₂ := 0x00#8)

/-- The word of a command is its opcode over its operand (R36, R39). -/
theorem encode_eq (i : Instr) : encode i = i.opcode ++ i.operand := by
  match i with
  | .crcInit | .crcValue | .cfgRaw | .cfgGres | .cfgGvdd | .cfgGhtr | .cfgGotp | .decT _ | .decH _ => rfl
  | .crcAdd b => exact append_zero_append_byte 0x11#8 b
  | .cfgLoad b => exact append_zero_append_byte 0x20#8 b
  | .cfgSres c => revert c; decide
  | .cfgShtr e => revert e; decide
  | .cfgSotp e => revert e; decide

theorem decode_crcAdd (b : Byte) : decode (0x1100#16 ++ b) = .ok (.crcAdd b) := by
  have hrow (x : Word16) : decodeFields 0x11#8 x = accept (x.extractLsb' 8 8 = 0) (.crcAdd (x.extractLsb' 0 8)) := rfl
  have hword : 0x1100#16 ++ b = 0x11#8 ++ zext16 b := append_zero_append_byte 0x11#8 b
  rw [hword, decode_append, hrow, zext16_upper, zext16_lower, decide_eq_true rfl, accept_true]

/-- R41: decoding undoes encoding. -/
theorem decode_encode (i : Instr) : decode (encode i) = .ok i := by
  match i with
  | .crcInit | .crcValue | .cfgRaw | .cfgGres | .cfgGvdd | .cfgGhtr | .cfgGotp => rfl
  | .crcAdd b => exact decode_crcAdd b
  | .cfgLoad b => exact decode_cfgLoad b
  | .cfgSres c => revert c; decide
  | .cfgShtr e => revert e; decide
  | .cfgSotp e => revert e; decide
  | .decT raw => exact decode_decT raw
  | .decH raw => exact decode_decH raw

/-! When an operand fits each layout, as R41 tests it. -/

theorem shiftRight_eq_zero_iff (x : Word16) {n : Nat} (hn : n < 16) : x >>> n = 0 ↔ x.extractLsb' n (16 - n) = 0 := by
  have hlt : x.toNat >>> n < 2 ^ (16 - n) := by
    rw [Nat.shiftRight_eq_div_pow, Nat.div_lt_iff_lt_mul (Nat.two_pow_pos n), ← Nat.pow_add, Nat.sub_add_cancel hn.le]
    exact x.isLt
  rw [← BitVec.toNat_inj, ← BitVec.toNat_inj, BitVec.extractLsb'_toNat, BitVec.toNat_ushiftRight, Nat.mod_eq_of_lt hlt]
  rfl

theorem fits_N (x : Word16) : Layout.N.fits x = decide (x = 0) := by
  rw [Layout.fits, Layout.usedBits, BitVec.ushiftRight_zero]

theorem fits_B (x : Word16) : Layout.B.fits x = decide (x.extractLsb' 8 8 = 0) :=
  decide_eq_decide.2 (shiftRight_eq_zero_iff x (by decide))

theorem fits_C (x : Word16) : Layout.C.fits x = decide (x.extractLsb' 2 14 = 0) :=
  decide_eq_decide.2 (shiftRight_eq_zero_iff x (by decide))

theorem fits_F (x : Word16) : Layout.F.fits x = decide (x.extractLsb' 1 15 = 0) :=
  decide_eq_decide.2 (shiftRight_eq_zero_iff x (by decide))

theorem fits_W (x : Word16) : Layout.W.fits x = true := decide_eq_true (BitVec.ushiftRight_eq_zero (by decide))

theorem fits_iff_lt (l : Layout) (x : Word16) : l.fits x = true ↔ x.toNat < 2 ^ l.usedBits := by
  rw [Layout.fits, decide_eq_true_iff, ← BitVec.toNat_inj, BitVec.toNat_ushiftRight, Nat.shiftRight_eq_div_pow]
  exact Nat.div_eq_zero_iff_lt (Nat.two_pow_pos _)

/-- An operand that fits is the zero extension of its used bits. -/
theorem setWidth_usedBits {l : Layout} {x : Word16} (h : l.fits x = true) :
    (x.extractLsb' 0 l.usedBits).setWidth 16 = x := by
  refine BitVec.eq_of_toNat_eq ?_
  rw [BitVec.toNat_setWidth, BitVec.extractLsb'_toNat, Nat.shiftRight_zero, Nat.mod_eq_of_lt ((fits_iff_lt l x).1 h),
    Nat.mod_eq_of_lt x.isLt]

/-! The rows of the table. -/

/-- The opcode of a row (R36, R39). -/
def OpcodeRow.opcode (r : OpcodeRow) : BitVec 8 := r.pattern.extractLsb' 16 8

/-- A row's pattern is its opcode over a zero operand; its mask covers the opcode and the unused bits of its layout. -/
theorem row_pattern_mask : ∀ r ∈ opcodeTable, r.pattern = r.opcode ++ 0#16 ∧
    r.mask = 0xFF#8 ++ (BitVec.allOnes 16 <<< r.layout.usedBits) := by decide

/-- No opcode has two rows. -/
theorem row_of_opcode_unique : ∀ r ∈ opcodeTable, ∀ r' ∈ opcodeTable, r.opcode = r'.opcode → r = r' := by decide

/-- Masking with a layout's unused bits leaves nothing exactly when the operand fits. -/
theorem and_unused_eq_zero_iff (l : Layout) (x : Word16) :
    x &&& (BitVec.allOnes 16 <<< l.usedBits) = 0#16 ↔ l.fits x = true := by
  have hlt : x.toNat / 2 ^ l.usedBits * 2 ^ l.usedBits < 2 ^ 16 := (Nat.div_mul_le_self _ _).trans_lt x.isLt
  rw [← BitVec.shiftLeft_ushiftRight, Layout.fits, decide_eq_true_iff, ← BitVec.toNat_inj, ← BitVec.toNat_inj,
    BitVec.toNat_shiftLeft, BitVec.toNat_ushiftRight, Nat.shiftRight_eq_div_pow, Nat.shiftLeft_eq, Nat.mod_eq_of_lt hlt]
  exact Nat.mul_eq_zero.trans (or_iff_left (Nat.two_pow_pos _).ne')

/-- A word matches a row exactly when it has the row's opcode and its operand fits the row's layout (R39, R40). -/
theorem matchesWord_iff {r : OpcodeRow} (hr : r ∈ opcodeTable) (w : CmdWord) :
    r.matchesWord w = true ↔ r.opcode = opcodeOf w ∧ r.layout.fits (operandOf w) = true := by
  obtain ⟨hpattern, hmask⟩ := row_pattern_mask r hr
  have hand : w &&& r.mask = opcodeOf w ++ (operandOf w &&& (BitVec.allOnes 16 <<< r.layout.usedBits)) := calc
    w &&& r.mask = (opcodeOf w ++ operandOf w) &&& (BitVec.allOnes 8 ++ BitVec.allOnes 16 <<< r.layout.usedBits) := by
      rw [hmask]; congr 1; exact (opcode_append_operand w).symm
    _ = _ := by rw [BitVec.and_append, BitVec.and_allOnes]
  rw [OpcodeRow.matchesWord, decide_eq_true_iff, hand, hpattern, ← and_unused_eq_zero_iff]
  refine ⟨fun h => ⟨?opcode, ?operand⟩, fun ⟨hop, hx⟩ => by rw [hop, hx]⟩
  case opcode => simpa using (congrArg opcodeOf h).symm
  case operand => simpa using congrArg operandOf h

/-- What R41 does with an opcode of the table: it accepts an operand that fits the row's layout, as the operand of a
command of that opcode. -/
theorem decodeFields_of_row {r : OpcodeRow} (hr : r ∈ opcodeTable) (x : Word16) :
    ∃ i, decodeFields r.opcode x = accept (r.layout.fits x) i ∧ i.opcode = r.opcode ∧
      (r.layout.fits x = true → i.operand = x) := by
  have zero (h : Layout.N.fits x = true) : 0 = x := by rw [fits_N, decide_eq_true_iff] at h; exact h.symm
  have bit (h : Layout.F.fits x = true) : (BitVec.ofBool (x.getLsbD 0)).setWidth 16 = x := by
    rw [← extractLsb'_one]; exact setWidth_usedBits h
  simp only [opcodeTable, List.mem_cons, List.not_mem_nil, or_false] at hr
  rcases hr with rfl | rfl | rfl | rfl | rfl | rfl | rfl | rfl | rfl | rfl | rfl | rfl | rfl | rfl
  · exact ⟨.crcInit, by rw [fits_N]; rfl, rfl, zero⟩
  · exact ⟨.crcAdd (x.extractLsb' 0 8), by rw [fits_B]; rfl, rfl, setWidth_usedBits⟩
  · exact ⟨.crcValue, by rw [fits_N]; rfl, rfl, zero⟩
  · exact ⟨.cfgLoad (x.extractLsb' 0 8), by rw [fits_B]; rfl, rfl, setWidth_usedBits⟩
  · exact ⟨.cfgRaw, by rw [fits_N]; rfl, rfl, zero⟩
  · exact ⟨.cfgGres, by rw [fits_N]; rfl, rfl, zero⟩
  · exact ⟨.cfgGvdd, by rw [fits_N]; rfl, rfl, zero⟩
  · exact ⟨.cfgGhtr, by rw [fits_N]; rfl, rfl, zero⟩
  · exact ⟨.cfgGotp, by rw [fits_N]; rfl, rfl, zero⟩
  · exact ⟨.cfgSres (x.extractLsb' 0 2), by rw [fits_C]; rfl, rfl, setWidth_usedBits⟩
  · exact ⟨.cfgShtr (x.getLsbD 0), by rw [fits_F]; rfl, rfl, bit⟩
  · exact ⟨.cfgSotp (x.getLsbD 0), by rw [fits_F]; rfl, rfl, bit⟩
  · exact ⟨.decT x, by rw [fits_W]; rfl, rfl, fun _ => rfl⟩
  · exact ⟨.decH x, by rw [fits_W]; rfl, rfl, fun _ => rfl⟩

/-- An opcode without a row is unknown to R41. -/
theorem decodeFields_of_no_row {op : BitVec 8} (h : ∀ r ∈ opcodeTable, r.opcode ≠ op) (x : Word16) :
    decodeFields op x = .error .unknownOpcode := by
  have h' : ∀ op' ∈ opcodeTable.map OpcodeRow.opcode, op ≠ op' := by
    rintro _ hop rfl
    obtain ⟨r, hr, hrop⟩ := List.mem_map.1 hop
    exact h r hr hrop
  simp [opcodeTable, OpcodeRow.opcode] at h'
  simp [decodeFields, h']

/-- What decoding a word does: it accepts the operand of its opcode's row, or there is no such row (R41). -/
theorem decode_cases (w : CmdWord) :
    (∃ r ∈ opcodeTable, r.opcode = opcodeOf w ∧ ∃ i, decode w = accept (r.layout.fits (operandOf w)) i ∧
      i.opcode = r.opcode ∧ (r.layout.fits (operandOf w) = true → i.operand = operandOf w)) ∨
    ((∀ r ∈ opcodeTable, r.opcode ≠ opcodeOf w) ∧ decode w = .error .unknownOpcode) := by
  by_cases hrow : ∃ r ∈ opcodeTable, r.opcode = opcodeOf w
  · obtain ⟨r, hr, hop⟩ := hrow
    refine .inl ⟨r, hr, hop, ?_⟩
    rw [decode, ← hop]
    exact decodeFields_of_row hr (operandOf w)
  · push Not at hrow
    exact .inr ⟨hrow, decodeFields_of_no_row hrow (operandOf w)⟩

/-- R41: encoding undoes decoding. -/
theorem encode_of_decode {w : CmdWord} {i : Instr} (h : decode w = .ok i) : encode i = w := by
  rcases decode_cases w with ⟨r, -, hop, j, hj, hjop, hjoperand⟩ | ⟨-, hunknown⟩
  · obtain ⟨hfits, rfl⟩ := accept_eq_ok (hj.symm.trans h)
    rw [encode_eq, hjop, hop, hjoperand hfits, opcode_append_operand]
  · cases hunknown.symm.trans h

/-- Settles O1: a command's word is its opcode over its operand, and what R41 accepts has the opcode and the operand of
the word. -/
theorem decodeEncodeRoundTrip : Obligations.DecodeEncodeRoundTrip :=
  ⟨decode_encode, fun _ _ => encode_of_decode⟩

/-- A word that matches a row decodes. -/
theorem decode_ok_of_matchesWord {r : OpcodeRow} (hr : r ∈ opcodeTable) {w : CmdWord} (h : r.matchesWord w = true) :
    ∃ i, decode w = .ok i := by
  obtain ⟨hop, hfits⟩ := (matchesWord_iff hr w).1 h
  obtain ⟨i, hi, -⟩ := decodeFields_of_row hr (operandOf w)
  exact ⟨i, by rw [decode, ← hop, hi, hfits, accept_true]⟩

/-- A word that decodes matches the row of its opcode. -/
theorem matchesWord_of_decode_ok {w : CmdWord} {i : Instr} (h : decode w = .ok i) :
    ∃ r ∈ opcodeTable, r.matchesWord w = true := by
  rcases decode_cases w with ⟨r, hr, hop, j, hj, -⟩ | ⟨-, hunknown⟩
  · obtain ⟨hfits, -⟩ := accept_eq_ok (hj.symm.trans h)
    exact ⟨r, hr, (matchesWord_iff hr w).2 ⟨hop, hfits⟩⟩
  · cases hunknown.symm.trans h

theorem decode_unknownOpcode_iff (w : CmdWord) :
    decode w = .error .unknownOpcode ↔ ∀ r ∈ opcodeTable, r.opcode ≠ opcodeOf w := by
  refine ⟨fun h r hr hop => ?_, fun h => decodeFields_of_no_row h (operandOf w)⟩
  obtain ⟨i, hi, -⟩ := decodeFields_of_row hr (operandOf w)
  rw [decode, ← hop, hi] at h
  cases hfits : r.layout.fits (operandOf w) <;> rw [hfits] at h <;> cases h

/-- Settles O2: a row is matched by the words of its opcode whose operand fits, which are the words R41 accepts; no
opcode has two rows. -/
theorem legalWordsAreThoseOfTheTable : Obligations.LegalWordsAreThoseOfTheTable := by
  refine ⟨fun w => ?legal, fun r hr r' hr' w h h' => ?disjoint, decode_unknownOpcode_iff⟩
  case legal =>
    rw [CmdWord.legal, List.any_eq_true]
    exact ⟨fun ⟨r, hr, h⟩ => decode_ok_of_matchesWord hr h, fun ⟨i, h⟩ => matchesWord_of_decode_ok h⟩
  case disjoint =>
    obtain ⟨hop, -⟩ := (matchesWord_iff hr w).1 h
    obtain ⟨hop', -⟩ := (matchesWord_iff hr' w).1 h'
    exact row_of_opcode_unique r hr r' hr' (hop.trans hop'.symm)

/-- Settles O4, by evaluating the decoder on each word. -/
theorem encodingWordsOfTheSpec : Obligations.EncodingWordsOfTheSpec := by
  unfold Obligations.EncodingWordsOfTheSpec; decide

end Sys2Proof
end

section
/-! PROOFS. How many words are legal (spec/30_encoding.md R40): a row is matched by one word for each choice of its
layout's used bits, and no word matches two rows. -/

namespace Sys2Proof

open Sys2Proof.Machine

/-- The word of a row's opcode with the given used operand bits. -/
def OpcodeRow.word (r : OpcodeRow) (v : BitVec r.layout.usedBits) : CmdWord := r.opcode ++ v.setWidth 16

theorem usedBits_le (l : Layout) : l.usedBits ≤ 16 := by cases l <;> decide

/-- The zero extension of a layout's used bits fits it. -/
theorem fits_setWidth {l : Layout} (v : BitVec l.usedBits) : l.fits (v.setWidth 16) = true := by
  rw [fits_iff_lt, BitVec.toNat_setWidth_of_le (usedBits_le l)]; exact v.isLt

theorem word_injective (r : OpcodeRow) : Function.Injective r.word := fun v v' h => by
  have hoperand : v.setWidth 16 = v'.setWidth 16 := by simpa [OpcodeRow.word] using congrArg operandOf h
  have hused := congrArg (BitVec.setWidth r.layout.usedBits) hoperand
  rwa [BitVec.setWidth_setWidth_of_le _ (usedBits_le _), BitVec.setWidth_setWidth_of_le _ (usedBits_le _),
    BitVec.setWidth_eq, BitVec.setWidth_eq] at hused

theorem matchedWords_eq_range {r : OpcodeRow} (hr : r ∈ opcodeTable) :
    {w | r.matchesWord w = true} = Set.range r.word := by
  ext w
  rw [Set.mem_ofPred_eq, matchesWord_iff hr, Set.mem_range]
  constructor
  · rintro ⟨hop, hfits⟩
    exact ⟨(operandOf w).extractLsb' 0 r.layout.usedBits,
      by rw [OpcodeRow.word, setWidth_usedBits hfits, hop, opcode_append_operand]⟩
  · rintro ⟨v, rfl⟩
    exact ⟨(opcodeOf_append _ _).symm, by rw [OpcodeRow.word, operandOf_append, fits_setWidth]⟩

theorem matchedWords_ncard {r : OpcodeRow} (hr : r ∈ opcodeTable) :
    Set.ncard {w | r.matchesWord w = true} = 2 ^ r.layout.usedBits := by
  rw [matchedWords_eq_range hr, Set.ncard_range_of_injective (word_injective r), natCard_bitVec]

/-- The legal words are what the rows match, a union over the finite set of rows. -/
theorem legalWords_eq_iUnion :
    {w : CmdWord | CmdWord.legal w = true} =
      ⋃ r ∈ (opcodeTable.toFinset : Set OpcodeRow), {w | r.matchesWord w = true} := by
  ext w; simp [CmdWord.legal]

/-- Settles O3: no word matches two rows, so the numbers of words that the rows match add up. -/
theorem legalWordCount : Obligations.LegalWordCount := by
  have hdisjoint : (opcodeTable.toFinset : Set OpcodeRow).PairwiseDisjoint fun r => {w | r.matchesWord w = true} := by
    intro r hr r' hr' hne
    refine Set.disjoint_left.2 fun w h h' => hne ?_
    obtain ⟨-, hrows, -⟩ := legalWordsAreThoseOfTheTable
    exact hrows r (List.mem_toFinset.1 hr) r' (List.mem_toFinset.1 hr') w h h'
  rw [Obligations.LegalWordCount, legalWords_eq_iUnion,
    opcodeTable.toFinset.finite_toSet.ncard_biUnion (fun _ _ => Set.toFinite _) hdisjoint, finsum_mem_coe_finset]
  calc ∑ r ∈ opcodeTable.toFinset, Set.ncard {w | r.matchesWord w = true}
      = ∑ r ∈ opcodeTable.toFinset, 2 ^ r.layout.usedBits :=
        Finset.sum_congr rfl fun r hr => matchedWords_ncard (List.mem_toFinset.1 hr)
    _ = 131599 := by decide

end Sys2Proof
end

section
/-! PROOFS. The assembler (spec/30_encoding.md R43): a mnemonic names one row, and the operand's number is put under the
row's opcode. -/

namespace Sys2Proof.Machine

/-- OR-ing a number into a row's pattern, as the assembler does, puts it under the opcode. -/
theorem pattern_or_operand (op : BitVec 8) (x : Word16) :
    ((op ++ 0#16 : CmdWord) ||| BitVec.ofNat 24 x.toNat) = op ++ x := by
  have hlow : BitVec.ofNat 24 x.toNat = 0#8 ++ x := by
    rw [BitVec.ofNat_toNat, BitVec.setWidth_eq_append (by decide)]; rfl
  rw [hlow]
  exact BitVec.or_append.trans (by rw [BitVec.or_zero, BitVec.zero_or])

/-- A mnemonic has one row. -/
theorem find_row_of_mnemonic : ∀ r ∈ opcodeTable, opcodeTable.find? (fun r' => r'.mnemonic == r.mnemonic) = some r := by
  decide

/-- Every command has the row of its mnemonic, layout and opcode. -/
theorem row_of_instr (i : Instr) :
    ∃ r ∈ opcodeTable, r.mnemonic = mnemonicOf i ∧ r.layout = i.layout ∧ r.opcode = i.opcode := by
  match i with
  | .crcInit => exact ⟨opcodeTable[0], List.getElem_mem _, rfl, rfl, rfl⟩
  | .crcAdd _ => exact ⟨opcodeTable[1], List.getElem_mem _, rfl, rfl, rfl⟩
  | .crcValue => exact ⟨opcodeTable[2], List.getElem_mem _, rfl, rfl, rfl⟩
  | .cfgLoad _ => exact ⟨opcodeTable[3], List.getElem_mem _, rfl, rfl, rfl⟩
  | .cfgRaw => exact ⟨opcodeTable[4], List.getElem_mem _, rfl, rfl, rfl⟩
  | .cfgGres => exact ⟨opcodeTable[5], List.getElem_mem _, rfl, rfl, rfl⟩
  | .cfgGvdd => exact ⟨opcodeTable[6], List.getElem_mem _, rfl, rfl, rfl⟩
  | .cfgGhtr => exact ⟨opcodeTable[7], List.getElem_mem _, rfl, rfl, rfl⟩
  | .cfgGotp => exact ⟨opcodeTable[8], List.getElem_mem _, rfl, rfl, rfl⟩
  | .cfgSres _ => exact ⟨opcodeTable[9], List.getElem_mem _, rfl, rfl, rfl⟩
  | .cfgShtr _ => exact ⟨opcodeTable[10], List.getElem_mem _, rfl, rfl, rfl⟩
  | .cfgSotp _ => exact ⟨opcodeTable[11], List.getElem_mem _, rfl, rfl, rfl⟩
  | .decT _ => exact ⟨opcodeTable[12], List.getElem_mem _, rfl, rfl, rfl⟩
  | .decH _ => exact ⟨opcodeTable[13], List.getElem_mem _, rfl, rfl, rfl⟩

/-- The operand of a command fits its layout (R37). -/
theorem operand_fits (i : Instr) : i.layout.fits i.operand = true := by
  match i with
  | .crcInit | .crcValue | .cfgRaw | .cfgGres | .cfgGvdd | .cfgGhtr | .cfgGotp => rfl
  | .crcAdd b | .cfgLoad b => exact fits_setWidth (l := .B) b
  | .cfgSres c => exact fits_setWidth (l := .C) c
  | .cfgShtr e | .cfgSotp e => exact fits_setWidth (l := .F) (BitVec.ofBool e)
  | .decT x | .decH x => exact fits_W x

/-- The operand as R43 writes it, none where the layout has none, stands for its number. -/
theorem operandNumber_of_instr (m : String) (i : Instr) :
    operandNumber m i.layout (if i.layout = .N then none else some (.number i.operand.toNat)) =
      some i.operand.toNat := by
  by_cases hN : i.layout = .N
  · have hzero := (fits_iff_lt _ _).1 (operand_fits i)
    rw [hN] at hzero
    rw [if_pos hN, hN, Nat.lt_one_iff.1 hzero]; rfl
  · rw [if_neg hN, operandNumber, if_neg hN]

theorem assemble_of_row {r : OpcodeRow} (hr : r ∈ opcodeTable) {operand : Option AsmOperand} {n : Nat}
    (hn : operandNumber r.mnemonic r.layout operand = some n) : assemble r.mnemonic operand =
      if n < 2 ^ r.layout.usedBits then (decode (r.pattern ||| BitVec.ofNat 24 n)).toOption else none := by
  simp only [assemble, find_row_of_mnemonic r hr, hn]

/-- A mnemonic whose layout has no operand takes no number. -/
theorem assemble_of_no_operand {r : OpcodeRow} (hr : r ∈ opcodeTable) (hN : r.layout = .N) (a : AsmOperand) :
    assemble r.mnemonic (some a) = none := by
  simp only [assemble, find_row_of_mnemonic r hr, hN, operandNumber, if_true]

/-- Settles O5: the number of a command's operand fits the row's layout, and OR-ing it into the row's pattern gives the
command's word. -/
theorem assemblerReadsEveryCommand : Obligations.AssemblerReadsEveryCommand := by
  refine ⟨fun i => ?command, fun r hr n hn => ?refused, by decide, by decide, by decide, by decide, by decide,
    by decide, by decide, by decide⟩
  case command =>
    obtain ⟨r, hr, hmnemonic, hlayout, hop⟩ := row_of_instr i
    obtain ⟨hpattern, -⟩ := row_pattern_mask r hr
    have hnumber := operandNumber_of_instr r.mnemonic i
    have hlt := (fits_iff_lt _ _).1 (operand_fits i)
    rw [← hlayout] at hnumber hlt ⊢
    rw [← hmnemonic, assemble_of_row hr hnumber, if_pos hlt, hpattern, hop, pattern_or_operand, ← encode_eq,
      decode_encode]
    rfl
  case refused =>
    by_cases hN : r.layout = .N
    · exact assemble_of_no_operand hr hN _
    · have hnumber : operandNumber r.mnemonic r.layout (some (.number n)) = some n := by
        rw [operandNumber, if_neg hN]
      rw [assemble_of_row hr hnumber, if_neg hn.not_gt]

end Sys2Proof.Machine
end

section
/-! PROOFS. What a command does, said once for all fourteen with the response and every register: the ground of the
frames, of the isolation of the units and of the invariant (spec/10_state.md R13, spec/30_encoding.md R45). -/

namespace Sys2Proof.Machine

open Sys2Proof.Safety

/-- The `CRC` an executed command leaves. -/
def crcAfter : Instr → Byte → Byte
  | .crcInit, _ => 0x00
  | .crcAdd b, c => crc8Add c b
  | .crcValue, c | .cfgLoad _, c | .cfgRaw, c | .cfgGres, c | .cfgGvdd, c | .cfgGhtr, c | .cfgGotp, c | .cfgSres _, c
  | .cfgShtr _, c | .cfgSotp _, c | .decT _, c | .decH _, c => c

/-- The `CFG` and `CFG_VALID` an executed command leaves; `cfgAfter` is what it does to a byte. -/
def configAfter : Instr → ConfigRegister → ConfigRegister
  | .cfgLoad b, _ => .loaded b
  | i, .loaded b => .loaded (cfgAfter i b)
  | _, .notLoaded => .notLoaded

/-- The `data` an executed command answers, where it is no decode; without a loaded byte no codec command but CFG.LOAD
is executed. -/
def dataOf : Instr → Byte → ConfigRegister → Word16
  | .crcValue, c, _ => zext16 c
  | .cfgRaw, _, .loaded b => zext16 b
  | .cfgGres, _, .loaded b => zext16 (resField b)
  | .cfgGvdd, _, .loaded b => zext16 (vddField b)
  | .cfgGhtr, _, .loaded b => zext16 (htrField b)
  | .cfgGotp, _, .loaded b => zext16 (otpField b)
  | _, _, _ => 0x0000

/-- The response of an executed command. -/
def respOf : Instr → Byte → ConfigRegister → Resp
  | .decT raw, _, _ => decodedResp .temperature raw
  | .decH raw, _, _ => decodedResp .humidity raw
  | i, c, g => executedResp (dataOf i c g)

/-- The state an executed command leaves. -/
def executed (i : Instr) (s : State) : State :=
  { s with crc := crcAfter i s.crc, cfg := configAfter i s.cfg, resp := some (respOf i s.crc s.cfg) }

/-- The command is executed: it needs no loaded byte, or there is one (R57, R84). -/
def Executable (i : Instr) (s : State) : Prop := needsLoadedConfig i = true → cfgValid s = true

theorem exec_of_executable {i : Instr} {s : State} (h : Executable i s) : exec i s = .next (executed i s) := by
  obtain ⟨crc, cfg, fault, input, resp⟩ := s
  cases cfg with
  | notLoaded =>
    match i with
    | .crcInit | .crcAdd _ | .crcValue | .cfgLoad _ | .decT _ | .decH _ => rfl
    | .cfgRaw | .cfgGres | .cfgGvdd | .cfgGhtr | .cfgGotp | .cfgSres _ | .cfgShtr _ | .cfgSotp _ => cases h rfl
  | loaded b => cases i <;> rfl

theorem not_executable_iff {i : Instr} {s : State} :
    ¬ Executable i s ↔ needsLoadedConfig i = true ∧ s.cfg = .notLoaded := by
  rw [Executable, Classical.not_imp, Bool.not_eq_true, cfgValid_eq_false_iff]

/-- A command is rejected for want of a loaded byte, or executed. -/
theorem exec_cases {i : Instr} {s t : State} (h : exec i s = .next t) :
    (needsLoadedConfig i = true ∧ s.cfg = .notLoaded ∧ t = afterRejection 0b10 s) ∨
    (Executable i s ∧ t = executed i s) := by
  by_cases hx : Executable i s
  · exact .inr ⟨hx, Host.Outcome.next.inj (h.symm.trans (exec_of_executable hx))⟩
  · obtain ⟨hneeds, hcfg⟩ := not_executable_iff.1 hx
    exact .inl ⟨hneeds, hcfg, Host.Outcome.next.inj (h.symm.trans (exec_of_notLoaded hneeds hcfg))⟩

end Sys2Proof.Machine
end

section
/-! PROOFS. Frames, isolation and idempotence (spec/10_state.md R13 to R20, spec/20_memory.md R30,
spec/70_reset_and_hazards.md R96). -/

namespace Sys2Proof.Machine

open Sys2Proof.Safety

theorem crcAfter_of_not_writesCrc {i : Instr} (h : writesCrc i = false) (c : Byte) : crcAfter i c = c := by
  cases i with
  | crcInit | crcAdd _ => cases h
  | _ => rfl

theorem configAfter_of_reader {i : Instr} (hload : isLoad i = false) (hmut : isMutator i = false)
    (g : ConfigRegister) : configAfter i g = g := by
  cases i with
  | cfgLoad _ => cases hload
  | cfgSres _ | cfgShtr _ | cfgSotp _ => cases hmut
  | _ => cases g <;> rfl

@[simp] theorem configAfter_loaded (i : Instr) (b : Byte) : configAfter i (.loaded b) = .loaded (cfgAfter i b) := by
  cases i <;> rfl

theorem configAfter_notLoaded {i : Instr} (hload : isLoad i = false) : configAfter i .notLoaded = .notLoaded := by
  cases i with
  | cfgLoad _ => cases hload
  | _ => rfl

/-- No command but CFG.LOAD changes `CFG_VALID` (R16). -/
theorem cfgValid_executed {i : Instr} (hload : isLoad i = false) (s : State) :
    cfgValid (executed i s) = cfgValid s := by
  cases hcfg : s.cfg with
  | notLoaded =>
    have hcfg' : (executed i s).cfg = .notLoaded := by rw [executed, hcfg, configAfter_notLoaded hload]
    rw [cfgValid_of_notLoaded s hcfg, cfgValid_of_notLoaded _ hcfg']
  | loaded b =>
    have hcfg' : (executed i s).cfg = .loaded (cfgAfter i b) := by rw [executed, hcfg, configAfter_loaded]
    rw [cfgValid_of_loaded s b hcfg, cfgValid_of_loaded _ _ hcfg']

theorem cfgValid_executed_load {i : Instr} (hload : isLoad i = true) (s : State) : cfgValid (executed i s) = true := by
  cases i with
  | cfgLoad b => exact cfgValid_of_loaded _ b rfl
  | _ => cases hload

/-- CFG.LOAD needs no loaded byte. -/
theorem isLoad_of_needsLoadedConfig {i : Instr} (h : needsLoadedConfig i = true) : isLoad i = false := by
  cases i with
  | cfgLoad _ => cases h
  | _ => rfl

/-- Settles O19: a rejection writes `FAULT` and the response only; an executed command leaves `CRC` and `CFG` as
`crcAfter` and `configAfter` say, which change them under the named commands only. -/
theorem registersWrittenOnlyByTheirCommands : Obligations.RegistersWrittenOnlyByTheirCommands := by
  intro i s t h
  rcases exec_cases h with ⟨hneeds, hcfg, rfl⟩ | ⟨hx, rfl⟩
  case inl =>
    have hvalid : cfgValid s ≠ true := by rw [cfgValid_of_notLoaded s hcfg]; exact Bool.false_ne_true
    have hload : isLoad i ≠ true := by rw [isLoad_of_needsLoadedConfig hneeds]; exact Bool.false_ne_true
    exact ⟨fun _ => rfl, fun _ _ => rfl, fun _ => rfl, fun h => absurd h hload,
      fun h => h.elim (fun hnot => absurd (hnot.symm.trans hneeds) Bool.false_ne_true) fun h => absurd h hvalid,
      fun _ _ => ⟨rfl, rfl, rfl⟩, rfl⟩
  case inr =>
    exact ⟨fun hcrc => crcAfter_of_not_writesCrc hcrc s.crc, fun hload hmut => configAfter_of_reader hload hmut s.cfg,
      fun hload => cfgValid_executed hload s, fun hload => cfgValid_executed_load hload s, fun _ => rfl,
      fun hneeds hvalid => absurd (hvalid.symm.trans (hx hneeds)) Bool.false_ne_true, rfl⟩

/-! Idempotence. -/

theorem setRes_setRes (k : BitVec 2) (b : Byte) : setRes k (setRes k b) = setRes k b := by
  obtain ⟨hres, -⟩ := setRes_fields k b
  nth_rw 1 [← hres]
  exact setRes_resField _

/-- A command repeated leaves the byte as it then is. -/
theorem cfgAfter_cfgAfter (i : Instr) (b : Byte) : cfgAfter i (cfgAfter i b) = cfgAfter i b := by
  cases i with
  | cfgSres k => exact setRes_setRes k b
  | cfgShtr e => exact setHtr_setHtr e b
  | cfgSotp e => exact setOtp_setOtp e b
  | _ => rfl

theorem configAfter_configAfter (i : Instr) (g : ConfigRegister) :
    configAfter i (configAfter i g) = configAfter i g := by
  cases g with
  | loaded b => rw [configAfter_loaded, configAfter_loaded, cfgAfter_cfgAfter]
  | notLoaded => cases i <;> rfl

theorem crcAfter_crcAfter {i : Instr} (hadd : ∀ b, i ≠ .crcAdd b) (c : Byte) :
    crcAfter i (crcAfter i c) = crcAfter i c := by
  cases i with
  | crcAdd b => exact absurd rfl (hadd b)
  | _ => rfl

/-- What a command writes has no part in what it answers. -/
theorem respOf_after (i : Instr) (c : Byte) (g : ConfigRegister) :
    respOf i (crcAfter i c) (configAfter i g) = respOf i c g := by
  cases g <;> cases i <;> rfl

theorem executed_executed {i : Instr} (hadd : ∀ b, i ≠ .crcAdd b) (s : State) :
    executed i (executed i s) = executed i s := by
  simp only [executed, crcAfter_crcAfter hadd, configAfter_configAfter, respOf_after]

theorem executable_executed {i : Instr} {s : State} (h : Executable i s) : Executable i (executed i s) :=
  fun hneeds => (cfgValid_executed (isLoad_of_needsLoadedConfig hneeds) s).trans (h hneeds)

/-- A rejection repeated sets the bit of `FAULT` that is set already. -/
theorem afterRejection_afterRejection (code : BitVec 2) (s : State) :
    afterRejection code (afterRejection code s) = afterRejection code s := by
  simp only [afterRejection, BitVec.or_assoc, BitVec.or_self]

/-- Settles O21: a rejection repeated and an execution repeated each give the state they gave first. -/
theorem commandsButAddAreIdempotent : Obligations.CommandsButAddAreIdempotent := by
  intro i s t hadd h
  rcases exec_cases h with ⟨hneeds, hcfg, rfl⟩ | ⟨hx, rfl⟩
  · have hcfg' : (afterRejection 0b10 s).cfg = .notLoaded := hcfg
    rw [exec_of_notLoaded hneeds hcfg', afterRejection_afterRejection]
  · rw [exec_of_executable (executable_executed hx), executed_executed hadd]

/-! The units: the high nibble of the opcode (R36). -/

theorem encode_unit (i : Instr) : (encode i).extractLsb' 20 4 = i.opcode.extractLsb' 4 4 := by
  rw [encode_eq]; exact BitVec.extractLsb'_append_eq_of_le (by decide)

theorem respOf_of_checksumUnit {i : Instr} (h : i.opcode.extractLsb' 4 4 = 0x1) (c : Byte) (g g' : ConfigRegister) :
    needsLoadedConfig i = false ∧ respOf i c g = respOf i c g' := by
  cases i with
  | crcInit | crcAdd _ | crcValue => exact ⟨rfl, rfl⟩
  | _ => simp [Instr.opcode] at h

theorem respOf_of_codecUnit {i : Instr} (h : i.opcode.extractLsb' 4 4 = 0x2) (c c' : Byte) (g : ConfigRegister) :
    respOf i c g = respOf i c' g := by
  cases i with
  | crcInit | crcAdd _ | crcValue | decT _ | decH _ => simp [Instr.opcode] at h
  | _ => cases g <;> rfl

theorem respOf_of_decoderUnit {i : Instr} (h : i.opcode.extractLsb' 4 4 = 0x3) (c c' : Byte) (g g' : ConfigRegister) :
    needsLoadedConfig i = false ∧ respOf i c g = respOf i c' g' := by
  cases i with
  | decT _ | decH _ => exact ⟨rfl, rfl⟩
  | _ => simp [Instr.opcode] at h

theorem executed_of_not_needs {i : Instr} {s t : State} (hneeds : needsLoadedConfig i = false)
    (h : exec i s = .next t) : t = executed i s :=
  Host.Outcome.next.inj (h.symm.trans (exec_of_executable fun h => absurd (hneeds.symm.trans h) Bool.false_ne_true))

/-- Settles O20: a command is rejected or executed by `CFG` alone, and what `executed` writes and answers reads the
register of the command's unit only. -/
theorem unitsShareNoState : Obligations.UnitsShareNoState := by
  intro i s s' t t' h h'
  rw [encode_unit]
  refine ⟨fun hunit hcrc => ?checksum, fun hunit hcfg => ?codec, fun hunit => ?decoder⟩
  case checksum =>
    obtain ⟨hneeds, hresp⟩ := respOf_of_checksumUnit hunit s.crc s.cfg s'.cfg
    obtain rfl := executed_of_not_needs hneeds h
    obtain rfl := executed_of_not_needs hneeds h'
    rw [executed, executed, hresp, hcrc]
    exact ⟨rfl, rfl⟩
  case codec =>
    have hexecutable : Executable i s ↔ Executable i s' := by simp only [Executable, cfgValid, hcfg]
    rcases exec_cases h with ⟨hneeds, hnot, rfl⟩ | ⟨hx, rfl⟩
    · obtain rfl := Host.Outcome.next.inj ((exec_of_notLoaded hneeds (hcfg ▸ hnot)).symm.trans h')
      exact ⟨rfl, hcfg⟩
    · obtain rfl := Host.Outcome.next.inj ((exec_of_executable (hexecutable.1 hx)).symm.trans h')
      simp only [executed, hcfg, respOf_of_codecUnit hunit s.crc s'.crc, and_self]
  case decoder =>
    obtain ⟨hneeds, hresp⟩ := respOf_of_decoderUnit hunit s.crc s'.crc s.cfg s'.cfg
    obtain rfl := executed_of_not_needs hneeds h
    obtain rfl := executed_of_not_needs hneeds h'
    exact congrArg some hresp

end Sys2Proof.Machine
end

section
/-! PROOFS. One step, whatever the host does in it (spec/00_scope.md R6, R7, spec/70_reset_and_hazards.md R102,
R104). -/

namespace Sys2Proof.Machine

/-- The first port sample is the host's move. -/
theorem currentMove_of_input {s : State} {p : PortInput} {rest : List PortInput} (h : s.input = p :: rest) :
    currentMove s = moveOf p := by rw [currentMove, h]

/-- A step in which the host presents a word is that of the state with its sample removed, the word presented. -/
theorem eq_present_of_input {s : State} {w : CmdWord} {rest : List PortInput} (h : s.input = ⟨false, some w⟩ :: rest) :
    s = present w { s with input := rest } := by rw [present, ← h]

/-- Settles O8: nothing presented is the move idle, in which `holdState` clears the response port. -/
theorem nothingPresentedHoldsTheRegisters : Obligations.NothingPresentedHoldsTheRegisters := by
  refine ⟨fun s h => ?exhausted, fun s rest h => ?sample⟩
  case exhausted =>
    have hmove : currentMove s = .idle := by rw [currentMove, h]
    rw [step_of_idle hmove, holdState, consume, h, List.tail_nil, ← h]
  case sample =>
    rw [step_of_idle (currentMove_of_input h), holdState, consume, h, List.tail_cons]

/-- Settles O9: the state is the one with the sample removed, with the word presented in it. -/
theorem stepRunsTheDecodedCommand : Obligations.StepRunsTheDecodedCommand := by
  intro s w rest i hinput hw
  rw [eq_present_of_input hinput]
  exact step_present_of_decode _ hw

theorem exec_input {i : Instr} {s t : State} (h : exec i s = .next t) : t.input = s.input := by
  rcases exec_cases h with ⟨-, -, rfl⟩ | ⟨-, rfl⟩ <;> rfl

/-- A presented word is answered, and what the host presents later is still to come. -/
theorem step_present_answers (w : CmdWord) (s : State) :
    ∃ t, step (present w s) = .next t ∧ t.input = s.input ∧ t.resp.isSome = true := by
  obtain ⟨t, r, hstep, hresp, -⟩ := step_present_response w s
  refine ⟨t, hstep, ?_, by rw [hresp]; rfl⟩
  rw [step_of_command (currentMove_present s w), consume_present] at hstep
  cases hw : decode w with
  | error e =>
    rw [hw] at hstep
    obtain ⟨-, -, hinput, -⟩ := raise_next hstep
    exact hinput
  | ok i => rw [hw] at hstep; exact exec_input hstep

/-- Settles O10, by the port sample: reset and an idle sample leave no response, a presented word is answered. -/
theorem everyStepAnswersANextState : Obligations.EveryStepAnswersANextState := by
  intro s
  match hinput : s.input with
  | [] => exact ⟨_, step_of_idle (by rw [currentMove, hinput]), hinput ▸ consume_input s, by simp⟩
  | ⟨true, c⟩ :: rest =>
    exact ⟨_, step_of_reset (currentMove_of_input hinput), hinput ▸ consume_input s, by simp [State.reset]⟩
  | ⟨false, none⟩ :: rest =>
    exact ⟨_, step_of_idle (currentMove_of_input hinput), hinput ▸ consume_input s, by simp⟩
  | ⟨false, some w⟩ :: rest =>
    obtain ⟨t, hstep, hrest, hresp⟩ := step_present_answers w { s with input := rest }
    rw [← eq_present_of_input hinput] at hstep
    exact ⟨t, hstep, hrest, iff_of_true hresp ⟨w, rest, rfl⟩⟩

/-- Settles O11: a step takes the port sample away and then holds, resets, rejects or executes, none of which reads the
response. -/
theorem responseIsNotState : Obligations.ResponseIsNotState := by
  refine ⟨fun s r => ?step, fun i s r => exec_ignores_resp i s r⟩
  cases hmove : currentMove s with
  | idle => rw [step_of_idle hmove]; exact step_of_idle hmove
  | reset => rw [step_of_reset hmove]; exact step_of_reset hmove
  | command w =>
    have hmove' : currentMove { s with resp := r } = .command w := hmove
    rw [step_of_command hmove, step_of_command hmove']
    cases decode w with
    | error e => rfl
    | ok i => exact exec_ignores_resp i (consume s) r

end Sys2Proof.Machine
end

section
/-! PROOFS. The invariant of the machine (spec/30_encoding.md R45, spec/10_state.md R17, spec/60_exceptions.md R84). -/

namespace Sys2Proof.Machine

open Sys2Proof.Safety

theorem blockInv_of_no_resp {s : State} (h : s.resp = none) : BlockInv s := fun r hr => by cases h.symm.trans hr

/-- Settles O17: no response stands at reset (log entry 3). -/
theorem invariantHoldsAtReset : Obligations.InvariantHoldsAtReset := blockInv_of_no_resp rfl

theorem valueOf_statusBits (raw : Word16) : valueOf raw &&& 0x0003 = 0 := by
  have hmasks : valueMask &&& 0x0003 = 0 := by decide
  rw [valueOf, BitVec.and_assoc, hmasks]; exact BitVec.and_zero

theorem legalResp_executedResp (data : Word16) : LegalResp (executedResp data) := .inr (.inl ⟨rfl, rfl, rfl⟩)

theorem legalResp_decodedResp (kind : MeasurementKind) (raw : Word16) : LegalResp (decodedResp kind raw) := by
  rcases rawWord_cases raw with rfl | rfl | hnormal
  · exact .inr (.inr (.inr ⟨rfl, .inl rfl, rfl, rfl⟩))
  · exact .inr (.inr (.inr ⟨rfl, .inr rfl, rfl, rfl⟩))
  · rw [decodedResp_of_normal kind hnormal]
    exact .inr (.inr (.inl ⟨rfl, rfl, valueOf_statusBits raw, kind, rfl⟩))

/-- An executed command answers a result that is no reading, or the response of a decode. -/
theorem respOf_ok_legal (i : Instr) (c : Byte) (g : ConfigRegister) :
    (respOf i c g).ok = true ∧ LegalResp (respOf i c g) := by
  cases i with
  | decT raw | decH raw => exact ⟨decodedResp_ok _ raw, legalResp_decodedResp _ raw⟩
  | _ => exact ⟨rfl, legalResp_executedResp _⟩

/-- The invariant holds after every executed command: its response has `ok` and so reports no cause. -/
theorem blockInv_executed (i : Instr) (s : State) : BlockInv (executed i s) := by
  intro r hr
  obtain rfl := Option.some.inj hr
  obtain ⟨hok, hlegal⟩ := respOf_ok_legal i s.crc s.cfg
  exact ⟨hlegal, by rw [reportedCause_of_ok hok]; exact BitVec.or_zero,
    fun hrejected => absurd (hrejected.symm.trans hok) Bool.false_ne_true⟩

/-- The invariant holds after a rejection that tells the truth about its cause. -/
theorem blockInv_afterRejection {code : BitVec 2} {s : State} (hcode : code = 0b01 ∨ code = 0b10 ∧ s.cfg = .notLoaded) :
    BlockInv (afterRejection code s) := by
  intro r hr
  obtain rfl := Option.some.inj hr
  have hrecorded : (afterRejection code s).fault ||| code = (afterRejection code s).fault := by
    rw [afterRejection, BitVec.or_assoc, BitVec.or_self]
  rw [reportedCause_of_rejection]
  rcases hcode with rfl | ⟨rfl, hcfg⟩
  · exact ⟨.inl ⟨rfl, .inl rfl, rfl, rfl⟩, hrecorded, fun _ hdata => absurd hdata (by decide)⟩
  · exact ⟨.inl ⟨rfl, .inr rfl, rfl, rfl⟩, hrecorded, fun _ _ => hcfg⟩

/-- Settles O18: a step that is no command leaves no response, and each command leaves one that is legal and true
whatever the state before it held. -/
theorem everyStepKeepsTheInvariant : Obligations.EveryStepKeepsTheInvariant := by
  intro s t _ h
  rcases step_next_cases h with ⟨-, rfl⟩ | ⟨-, rfl⟩ | ⟨w, e, -, -, hraise⟩ | ⟨w, i, -, -, hexec⟩
  · exact blockInv_of_no_resp rfl
  · exact blockInv_of_no_resp rfl
  · obtain rfl := Host.Outcome.next.inj ((raise_illegalCommand _).symm.trans hraise)
    exact blockInv_afterRejection (.inl rfl)
  · rcases exec_cases hexec with ⟨-, hcfg, rfl⟩ | ⟨-, rfl⟩
    · exact blockInv_afterRejection (.inr ⟨rfl, hcfg⟩)
    · exact blockInv_executed i _

end Sys2Proof.Machine
end

section
/-! PROOFS. The algebra of `crc8_add` (spec/40_checksum.md R47, R48): the eight shifts are one injective linear map,
whose value is the remainder of a polynomial division. -/

namespace Sys2Proof.Machine

open Sys2Proof.Safety

theorem crcShifts_eq_iterate (n : Nat) (r : Byte) : crcShifts n r = crcShift^[n] r := by
  induction n generalizing r with
  | zero => rfl
  | succ n ih => exact ih (crcShift r)

/-- A shift loses nothing: the bit shifted out comes back in the coefficients of the polynomial. -/
theorem crcShift_eq_zero : ∀ r : Byte, crcShift r = 0 → r = 0 := by decide

theorem crcShifts_eq_zero_iff (n : Nat) (r : Byte) : crcShifts n r = 0 ↔ r = 0 := by
  induction n generalizing r with
  | zero => exact Iff.rfl
  | succ n ih => exact (ih (crcShift r)).trans ⟨crcShift_eq_zero r, by rintro rfl; rfl⟩

/-- The update is linear in the remainder and the byte together. -/
theorem crc8Add_xor (c c' b b' : Byte) : crc8Add (c ^^^ c') (b ^^^ b') = crc8Add c b ^^^ crc8Add c' b' := by
  rw [crc8Add, crc8Add, crc8Add, ← crcShifts_xor]
  congr 1; ac_rfl

theorem crc8Add_eq_zero_iff (c b : Byte) : crc8Add c b = 0x00 ↔ c = b := by
  rw [crc8Add, crcShifts_eq_zero_iff]; exact BitVec.xor_eq_zero_iff

theorem crc8Add_comm (c b : Byte) : crc8Add c b = crc8Add b c := by rw [crc8Add, crc8Add, BitVec.xor_comm]

theorem crc8Add_injective (c : Byte) : Function.Injective (crc8Add c) := fun b b' h => by
  have hzero : crc8Add (c ^^^ c) (b ^^^ b') = 0x00 := by rw [crc8Add_xor, h, BitVec.xor_self]; rfl
  rw [BitVec.xor_self, crc8Add_eq_zero_iff] at hzero
  exact BitVec.xor_eq_zero_iff.1 hzero.symm

theorem crc8Add_bijective (c : Byte) : Function.Bijective (crc8Add c) :=
  Finite.injective_iff_bijective.1 (crc8Add_injective c)

/-- The update depends on the XOR of remainder and byte only. -/
theorem crc8Add_eq (c b : Byte) : crc8Add c b = crc8Add (c ^^^ b) 0x00 := congrArg (crcShifts 8) BitVec.xor_zero.symm

/-- Settles O26: the shifts are one linear injective map of `c ^^^ b`, and an injective map of a finite type is a
bijection. -/
theorem crcAlgorithm : Obligations.CrcAlgorithm := by
  refine ⟨fun c b => crcShifts_eq_iterate 8 (c ^^^ b), fun c b => ⟨crc8Add_eq c b, ?second⟩, fun x y => ?linear,
    fun c => ⟨crc8Add_bijective c, ?first⟩, fun c => (crc8Add_eq_zero_iff c c).2 rfl, by decide, by decide, by decide⟩
  case second => rw [crc8Add_eq, crc8Add_comm]
  case linear => exact crc8Add_xor 0x00 0x00 x y
  case first => rw [← funext (crc8Add_comm c)]; exact crc8Add_bijective c

/-- Settles O24, by evaluating the update at each remainder. -/
theorem zeroByteFixedPoints : Obligations.ZeroByteFixedPoints := by
  unfold Obligations.ZeroByteFixedPoints; decide +kernel

/-- The bits that `n` shifts push out at the top, the first one highest: the quotient of the division of R47. -/
def crcQuotient : Nat → Byte → Byte
  | 0, _ => 0
  | n + 1, r => (BitVec.ofBool (r.getLsbD 7)).setWidth 8 <<< n ^^^ crcQuotient n (crcShift r)

/-- One step of `polyMul`: bit `i` of the first factor adds the second, shifted by `i`. -/
def addShifted (a b acc : BitVec 16) (i : Nat) : BitVec 16 := if a.getLsbD i then acc ^^^ (b <<< i) else acc

theorem addShifted_xor (a a' b x x' : BitVec 16) (i : Nat) :
    addShifted (a ^^^ a') b (x ^^^ x') i = addShifted a b x i ^^^ addShifted a' b x' i := by
  have hboth (t : BitVec 16) : x ^^^ x' = (x ^^^ t) ^^^ (x' ^^^ t) := by
    rw [BitVec.xor_comm x' t, BitVec.xor_assoc, ← BitVec.xor_assoc t, BitVec.xor_self, BitVec.zero_xor]
  simp only [addShifted, BitVec.getLsbD_xor]
  cases a.getLsbD i <;> cases a'.getLsbD i
  · rfl
  · exact BitVec.xor_assoc x x' _
  · change x ^^^ x' ^^^ b <<< i = x ^^^ b <<< i ^^^ x'
    ac_rfl
  · exact hboth _

/-- Multiplication by a fixed polynomial is linear. -/
theorem polyMul_xor (a a' b : BitVec 16) : polyMul (a ^^^ a') b = polyMul a b ^^^ polyMul a' b := by
  have hfold (is : List Nat) (x x' : BitVec 16) : is.foldl (addShifted (a ^^^ a') b) (x ^^^ x') =
      is.foldl (addShifted a b) x ^^^ is.foldl (addShifted a' b) x' := by
    induction is generalizing x x' with
    | nil => rfl
    | cons i is ih => rw [List.foldl_cons, List.foldl_cons, List.foldl_cons, ← ih, addShifted_xor]
  exact hfold (List.range 16) 0 0

/-- A single bit times the generator is the generator shifted to that bit. -/
theorem polyMul_bit : ∀ top : Bool, ∀ n < 8,
    polyMul (((BitVec.ofBool top).setWidth 8 <<< n : Byte).setWidth 16) crcGenerator =
      (if top then crcGenerator else 0) <<< n := by decide

/-- One shift is one step of the long division: the bit that leaves the byte takes the generator with it. -/
theorem shift_eq_crcShift : ∀ r : Byte,
    r.setWidth 16 <<< 1 = (if r.getLsbD 7 then crcGenerator else 0) ^^^ (crcShift r).setWidth 16 := by decide

/-- Long division, for as many bits as a quotient byte holds. -/
theorem shiftLeft_eq_quotient_remainder {n : Nat} (hn : n ≤ 8) (r : Byte) : r.setWidth 16 <<< n =
    polyMul ((crcQuotient n r).setWidth 16) crcGenerator ^^^ (crcShifts n r).setWidth 16 := by
  induction n generalizing r with
  | zero =>
    have hzero : polyMul ((0x00 : Byte).setWidth 16) crcGenerator = 0#16 := by decide
    rw [crcQuotient, hzero, BitVec.zero_xor, BitVec.shiftLeft_zero, crcShifts]
  | succ n ih =>
    have hsplit : r.setWidth 16 <<< (n + 1) = (r.setWidth 16 <<< 1) <<< n := by
      rw [← BitVec.shiftLeft_add, Nat.add_comm]
    rw [hsplit, shift_eq_crcShift, BitVec.shiftLeft_xor_distrib, ih (by omega), ← polyMul_bit _ n (by omega),
      crcQuotient, BitVec.setWidth_xor, polyMul_xor, BitVec.xor_assoc, crcShifts]

/-- Settles O27: the quotient is made of the bits that the eight shifts push out. -/
theorem crcIsThePolynomialRemainder : Obligations.CrcIsThePolynomialRemainder :=
  fun c b => ⟨crcQuotient 8 (c ^^^ b), shiftLeft_eq_quotient_remainder le_rfl (c ^^^ b)⟩

end Sys2Proof.Machine
end

section
/-! PROOFS. Sequences of commands of the checksum unit, and the check of a reply (spec/40_checksum.md R50, R52 to
R54). -/

namespace Sys2Proof.Machine

open Sys2Proof.Safety

/-- Settles O23: CRC.ADD answers 0 over the updated remainder; an operand with a bit above its byte fails the `accept`
of the opcode. -/
theorem crcAddUpdatesTheRemainder : Obligations.CrcAddUpdatesTheRemainder := by
  have hexec (b : Byte) (s : State) :
      exec (.crcAdd b) s = .next (afterAnswer 0x0000 { s with crc := crc8Add s.crc b }) := rfl
  refine ⟨hexec, fun s => ?itself, fun s hcrc => ?zeroByte, fun s hcrc => ?source,
    fun b => ⟨rfl, decode_crcAdd b⟩, fun x hx => ?illegal⟩
  case itself => rw [hexec, (crc8Add_eq_zero_iff s.crc s.crc).2 rfl]
  case zeroByte => rw [hexec, hcrc]; rfl
  case source => rw [hexec, hcrc]; rfl
  case illegal => exact raisesIllegal_of_accept (i := .crcAdd (x.extractLsb' 0 8)) rfl (decide_eq_false hx)

/-- Presenting the words of a sequence of commands: the first is executed, the rest start from its next state. -/
theorem runWords_encode_cons {i : Instr} {is : List Instr} {s t u : State} {r : Resp} {rs : List Resp}
    (hexec : exec i s = .next t) (hresp : t.resp = some r) (hrun : runWords (is.map encode) t = some (u, rs)) :
    runWords ((i :: is).map encode) s = some (u, r :: rs) :=
  runWords_cons ((step_present_of_decode s (decode_encode i)).trans hexec) hresp hrun

/-- Sequences one after the other: the second starts from the last state of the first. -/
theorem runWords_append {ws ws' : List CmdWord} {s u v : State} {rs rs' : List Resp}
    (h : runWords ws s = some (u, rs)) (h' : runWords ws' u = some (v, rs')) :
    runWords (ws ++ ws') s = some (v, rs ++ rs') := by
  induction ws generalizing s rs with
  | nil =>
    obtain ⟨rfl, rfl⟩ := Prod.mk.inj (Option.some.inj h)
    exact h'
  | cons w ws ih =>
    obtain ⟨t, r, hstep, hresp, -⟩ := step_present_response w s
    simp only [runWords, hstep, hresp, Option.map_eq_some_iff, Prod.mk.injEq] at h
    obtain ⟨⟨u', rest⟩, hrun, rfl, rfl⟩ := h
    exact runWords_cons hstep hresp (ih hrun)

theorem crc8Fold_eq_foldl (c : Byte) (bs : List Byte) : crc8Fold c bs = bs.foldl crc8Add c := by
  induction bs generalizing c with
  | nil => rfl
  | cons b bs ih => exact ih (crc8Add c b)

theorem crc8Fold_append (c : Byte) (bs bs' : List Byte) : crc8Fold c (bs ++ bs') = crc8Fold (crc8Fold c bs) bs' := by
  rw [crc8Fold_eq_foldl, crc8Fold_eq_foldl, crc8Fold_eq_foldl, List.foldl_append]

/-- CRC.ADDALL folds the update over its bytes, each answered with `ok`, and writes `CRC` only (R44, R52). -/
theorem runWords_crcAddAll (bs : List Byte) (s : State) :
    ∃ u rs, runWords ((crcAddAll bs).map encode) s = some (u, rs) ∧ u.crc = crc8Fold s.crc bs ∧
      u.cfg = s.cfg ∧ u.fault = s.fault ∧ u.input = s.input ∧ ∀ q ∈ rs, q.ok = true := by
  induction bs generalizing s with
  | nil => exact ⟨s, [], rfl, rfl, rfl, rfl, rfl, fun _ hq => by cases hq⟩
  | cons b bs ih =>
    obtain ⟨u, rs, hrun, hcrc, hcfg, hfault, hinput, hok⟩ := ih (afterAnswer 0x0000 (writeCrc (crc8Add s.crc b) s))
    exact ⟨u, executedResp 0x0000 :: rs, runWords_encode_cons rfl rfl hrun, hcrc, hcfg, hfault, hinput,
      List.forall_mem_cons.2 ⟨rfl, hok⟩⟩

/-- Settles O28, by induction on the bytes with the state general. -/
theorem crcFoldLaw : Obligations.CrcFoldLaw := by
  refine ⟨fun bs s => ?sequence, crc8Fold_append, fun _ => rfl, by decide +kernel, by decide +kernel⟩
  obtain ⟨u, rs, hrun, hcrc, hcfg, hfault, hinput, -⟩ := runWords_crcAddAll bs s
  exact ⟨u, rs, hrun, hcrc.trans (crc8Fold_eq_foldl _ _), hcrc, hcfg, hfault, hinput⟩

/-- CRC.OF answers the checksum of its bytes in the last response, and every response has `ok` (R44). -/
theorem runWords_crcOf (bs : List Byte) (s : State) :
    ∃ u rs, runWords ((crcOf bs).map encode) s = some (u, rs ++ [executedResp (zext16 (crc8 bs))]) ∧
      u.cfg = s.cfg ∧ u.fault = s.fault ∧ ∀ q ∈ rs, q.ok = true := by
  obtain ⟨u, rs, hrun, hcrc, hcfg, hfault, -, hok⟩ := runWords_crcAddAll bs (afterAnswer 0x0000 (writeCrc 0x00 s))
  have hvalue : runWords ([Instr.crcValue].map encode) u =
      some (afterAnswer (zext16 u.crc) u, [executedResp (zext16 u.crc)]) :=
    runWords_encode_cons (exec_crcValue u) rfl rfl
  refine ⟨afterAnswer (zext16 u.crc) u, executedResp 0x0000 :: rs, ?run, hcfg, hfault,
    List.forall_mem_cons.2 ⟨rfl, hok⟩⟩
  case run =>
    have hsum : u.crc = crc8 bs := hcrc
    rw [crcOf, List.map_append, ← hsum]
    exact runWords_append (runWords_encode_cons (exec_crcInit s) rfl hrun) hvalue

theorem crc8_three (hi lo c : Byte) : crc8 [hi, lo, c] = crc8Add (crc8 [hi, lo]) c := rfl

/-- A reply is valid exactly when its third byte is the checksum of the first two (R53). -/
theorem valid3_iff (hi lo c : Byte) : valid3 hi lo c = true ↔ c = crc8 [hi, lo] := by
  rw [valid3, decide_eq_true_iff, crc8_three, crc8Add_eq_zero_iff, eq_comm]

theorem zext16_eq_zero_iff (b : Byte) : zext16 b = 0x0000 ↔ b = 0x00 :=
  ⟨fun h => by rw [← zext16_lower b, h]; rfl, fun h => by rw [h]; rfl⟩

/-- Settles O29: CRC.CHECK3 is CRC.OF of the three bytes, whose checksum is the third byte added to that of the first
two. -/
theorem replyValidity : Obligations.ReplyValidity := by
  refine ⟨valid3_iff, fun hi lo c s => ?check⟩
  obtain ⟨u, rs, hrun, hcfg, hfault, hok⟩ := runWords_crcOf [hi, lo, c] s
  refine ⟨u, rs, _, hrun, fun q hq => ?ok, ?zero, hfault, hcfg⟩
  case ok =>
    rcases List.mem_append.1 hq with hq | hq
    · exact hok q hq
    · rw [List.mem_singleton.1 hq]; rfl
  case zero => exact (zext16_eq_zero_iff _).trans (decide_eq_true_iff (p := crc8 [hi, lo, c] = 0x00)).symm

/-- The checksum over the three bytes of a 24-bit reply: zero for a valid one. -/
def syndrome (w : BitVec 24) : Byte := crc8 [w.extractLsb' 16 8, w.extractLsb' 8 8, w.extractLsb' 0 8]

theorem replyValid_iff (w : BitVec 24) : replyValid w = true ↔ syndrome w = 0x00 := decide_eq_true_iff

theorem syndrome_xor (w e : BitVec 24) : syndrome (w ^^^ e) = syndrome w ^^^ syndrome e := by
  simp only [syndrome, crc8, crc8Fold_cons, crc8Fold_nil, BitVec.extractLsb'_xor, ← crc8Add_xor]
  rfl

theorem replyValid_bytes (hi lo c : Byte) : replyValid (hi ++ lo ++ c : BitVec 24) = valid3 hi lo c := by
  have htop : (hi ++ lo ++ c).extractLsb' 16 8 = hi := by
    rw [BitVec.extractLsb'_append_eq_of_le (by decide)]; exact BitVec.extractLsb'_append_eq_left
  have hmiddle : (hi ++ lo ++ c).extractLsb' 8 8 = lo := by
    rw [BitVec.extractLsb'_append_eq_of_le (by decide)]; exact BitVec.extractLsb'_append_eq_right
  have hbottom : (hi ++ lo ++ c).extractLsb' 0 8 = c := BitVec.extractLsb'_append_eq_right
  change valid3 ((hi ++ lo ++ c).extractLsb' 16 8) ((hi ++ lo ++ c).extractLsb' 8 8)
    ((hi ++ lo ++ c).extractLsb' 0 8) = _
  rw [htop, hmiddle, hbottom]

/-- The error patterns of one bit have a syndrome of their own. -/
theorem syndrome_bit : ∀ k < 24, syndrome (1#24 <<< k) ≠ 0x00 := by decide +kernel

/-- Settles O30: a valid reply has syndrome zero, so the syndrome of the flipped reply is that of the flipped bit. -/
theorem singleBitErrorsAreDetected : Obligations.SingleBitErrorsAreDetected := by
  intro hi lo k hk
  have hvalid := (replyValid_iff _).1 ((replyValid_bytes hi lo _).trans ((valid3_iff hi lo _).2 rfl))
  rw [← Bool.not_eq_true, replyValid_iff, syndrome_xor, hvalid]
  exact fun h => syndrome_bit k hk (BitVec.zero_xor.symm.trans h)

end Sys2Proof.Machine
end

section
/-! PROOFS. The bytes that mutators leave, in closed form (spec/41_config_codec.md R69): each field holds the last
operand its mutator gave it, and the fields determine the byte. -/

namespace Sys2Proof.Machine

open Sys2Proof.Safety

/-- The byte after a sequence of commands. -/
def bytesAfter (ms : List Instr) (b : Byte) : Byte := ms.foldl (fun b m => cfgAfter m b) b

theorem bytesAfter_cons (m : Instr) (ms : List Instr) (b : Byte) :
    bytesAfter (m :: ms) b = bytesAfter ms (cfgAfter m b) := rfl

/-- A byte with the resolution `k`, the heater bit `e`, auto-reload `f`, and the read-only bits of `b`. -/
def withFields (k : BitVec 2) (e f : Bool) (b : Byte) : Byte := setRes k (setHtr e (setOtp f b))

theorem withFields_fields (k : BitVec 2) (e f : Bool) (b : Byte) :
    resField (withFields k e f b) = k ∧ vddField (withFields k e f b) = vddField b ∧
      reservedField (withFields k e f b) = reservedField b ∧ htrField (withFields k e f b) = BitVec.ofBool e ∧
      otpField (withFields k e f b) = BitVec.ofBool f := by
  obtain ⟨hres, hvdd, hreserved, hhtr, hotp⟩ := setRes_fields k (setHtr e (setOtp f b))
  obtain ⟨-, hvdd', hreserved', hhtr', hotp'⟩ := setHtr_fields e (setOtp f b)
  obtain ⟨-, hvdd'', hreserved'', -, hotp''⟩ := setOtp_fields f b
  exact ⟨hres, hvdd.trans (hvdd'.trans hvdd''), hreserved.trans (hreserved'.trans hreserved''), hhtr.trans hhtr',
    hotp.trans (hotp'.trans hotp'')⟩

/-- A byte is its fields over its own read-only bits. -/
theorem eq_withFields {b b' : Byte} {k : BitVec 2} {e f : Bool} (hres : resField b' = k)
    (hvdd : vddField b' = vddField b) (hreserved : reservedField b' = reservedField b)
    (hhtr : htrField b' = BitVec.ofBool e) (hotp : otpField b' = BitVec.ofBool f) : b' = withFields k e f b := by
  obtain ⟨hres', hvdd', hreserved', hhtr', hotp'⟩ := withFields_fields k e f b
  exact cfg_ext _ _ (hres.trans hres'.symm) (hvdd.trans hvdd'.symm) (hreserved.trans hreserved'.symm)
    (hhtr.trans hhtr'.symm) (hotp.trans hotp'.symm)

theorem withFields_self (b : Byte) : withFields (resField b) (b.getLsbD 2) (!b.getLsbD 1) b = b :=
  (eq_withFields rfl rfl rfl (htrField_eq b) (otpField_eq b)).symm

/-- A mutator sets its own field and leaves the others. -/
theorem cfgAfter_withFields {m : Instr} (hm : isMutator m = true) (k : BitVec 2) (e f : Bool) (b : Byte) :
    cfgAfter m (withFields k e f b) = withFields (lastRes k [m]) (lastHtr e [m]) (lastOtp f [m]) b := by
  obtain ⟨hres, hvdd, hreserved, hhtr, hotp⟩ := withFields_fields k e f b
  match m, hm with
  | .cfgSres c, _ =>
    obtain ⟨hres', hvdd', hreserved', hhtr', hotp'⟩ := setRes_fields c (withFields k e f b)
    exact eq_withFields hres' (hvdd'.trans hvdd) (hreserved'.trans hreserved) (hhtr'.trans hhtr) (hotp'.trans hotp)
  | .cfgShtr c, _ =>
    obtain ⟨hres', hvdd', hreserved', hhtr', hotp'⟩ := setHtr_fields c (withFields k e f b)
    exact eq_withFields (hres'.trans hres) (hvdd'.trans hvdd) (hreserved'.trans hreserved) hhtr' (hotp'.trans hotp)
  | .cfgSotp c, _ =>
    obtain ⟨hres', hvdd', hreserved', hhtr', hotp'⟩ := setOtp_fields c (withFields k e f b)
    exact eq_withFields (hres'.trans hres) (hvdd'.trans hvdd) (hreserved'.trans hreserved) (hhtr'.trans hhtr) hotp'

theorem bytesAfter_withFields {ms : List Instr} (hms : ∀ m ∈ ms, isMutator m = true) (k : BitVec 2) (e f : Bool)
    (b : Byte) : bytesAfter ms (withFields k e f b) = withFields (lastRes k ms) (lastHtr e ms) (lastOtp f ms) b := by
  induction ms generalizing k e f with
  | nil => rfl
  | cons m ms ih =>
    obtain ⟨hm, hms⟩ := List.forall_mem_cons.1 hms
    rw [bytesAfter_cons, cfgAfter_withFields hm, ih hms]
    rfl

/-- Sequences of mutators that leave each field the same operand leave the same byte. -/
theorem bytesAfter_congr {ms ms' : List Instr} (hms : ∀ m ∈ ms, isMutator m = true)
    (hms' : ∀ m ∈ ms', isMutator m = true) (hres : ∀ k, lastRes k ms = lastRes k ms')
    (hhtr : ∀ e, lastHtr e ms = lastHtr e ms') (hotp : ∀ f, lastOtp f ms = lastOtp f ms') (b : Byte) :
    bytesAfter ms b = bytesAfter ms' b := by
  rw [← withFields_self b, bytesAfter_withFields hms, bytesAfter_withFields hms', hres, hhtr, hotp]

/-- The closed form's masks (R69), bit by bit from the masks of the three mutators. -/
theorem withFields_eq_masked (k : BitVec 2) (e f : Bool) (b : Byte) : withFields k e f b =
    ((b &&& 0x78#8) ||| ((k.extractLsb' 1 1).setWidth 8 <<< 7) ||| ((BitVec.ofBool e).setWidth 8 <<< 2) |||
      ((BitVec.ofBool (!f)).setWidth 8 <<< 1) ||| (k.extractLsb' 0 1).setWidth 8) := by
  rw [withFields, setRes_eq_masked, setHtr_eq_masked, setOtp_eq_masked]
  ext i hi
  interval_cases i <;> simp

theorem exec_mutator {m : Instr} (hm : isMutator m = true) {s : State} {b : Byte} (hcfg : s.cfg = .loaded b) :
    exec m s = .next (afterAnswer 0x0000 (writeCfg (cfgAfter m b) s)) := by
  match m, hm with
  | .cfgSres k, _ => exact exec_cfgSres_of_loaded hcfg k
  | .cfgShtr e, _ => exact exec_cfgShtr_of_loaded hcfg e
  | .cfgSotp e, _ => exact exec_cfgSotp_of_loaded hcfg e

/-- A sequence of mutators runs through and writes `CFG` only. -/
theorem runWords_mutators {ms : List Instr} (hms : ∀ m ∈ ms, isMutator m = true) {s : State} {b : Byte}
    (hcfg : s.cfg = .loaded b) : ∃ u rs, runWords (ms.map encode) s = some (u, rs) ∧ u.crc = s.crc ∧
      u.fault = s.fault ∧ u.input = s.input ∧ u.cfg = .loaded (bytesAfter ms b) := by
  induction ms generalizing s b with
  | nil => exact ⟨s, [], rfl, rfl, rfl, rfl, hcfg⟩
  | cons m ms ih =>
    obtain ⟨hm, hms⟩ := List.forall_mem_cons.1 hms
    obtain ⟨u, rs, hrun, hu⟩ := ih hms (s := afterAnswer 0x0000 (writeCfg (cfgAfter m b) s)) rfl
    exact ⟨u, executedResp 0x0000 :: rs, runWords_encode_cons (exec_mutator hm hcfg) rfl hrun, hu⟩

/-- Settles O42, by induction on the mutators: one mutator changes one field, and the masks put the fields together. -/
theorem mutatorSequenceClosedForm : Obligations.MutatorSequenceClosedForm := by
  intro ms s b hms hcfg
  obtain ⟨u, rs, hrun, hcrc, hfault, hinput, hu⟩ := runWords_mutators hms hcfg
  have hclosed := bytesAfter_withFields hms (resField b) (b.getLsbD 2) (!b.getLsbD 1) b
  rw [withFields_self, withFields_eq_masked, resField_eq] at hclosed
  exact ⟨u, rs, hrun, hcrc, hfault, hinput, hu.trans (congrArg ConfigRegister.loaded hclosed)⟩

end Sys2Proof.Machine
end

section
/-! PROOFS. The laws of the configuration codec for one word and for two commands (spec/41_config_codec.md R67 to
R69). -/

namespace Sys2Proof.Machine

open Sys2Proof.Safety

/-- Mutators of different fields commute. -/
theorem cfgAfter_comm {m n : Instr} (hm : isMutator m = true) (hn : isMutator n = true)
    (hne : mnemonicOf m ≠ mnemonicOf n) (b : Byte) : cfgAfter n (cfgAfter m b) = cfgAfter m (cfgAfter n b) := by
  have hboth : ∀ x ∈ [m, n], isMutator x = true := List.forall_mem_cons.2 ⟨hm, List.forall_mem_singleton.2 hn⟩
  have hboth' : ∀ x ∈ [n, m], isMutator x = true := List.forall_mem_cons.2 ⟨hn, List.forall_mem_singleton.2 hm⟩
  match m, n, hm, hn with
  | .cfgSres _, .cfgSres _, _, _ | .cfgShtr _, .cfgShtr _, _, _ | .cfgSotp _, .cfgSotp _, _, _ => exact absurd rfl hne
  | .cfgSres _, .cfgShtr _, _, _ | .cfgSres _, .cfgSotp _, _, _ | .cfgShtr _, .cfgSres _, _, _
  | .cfgShtr _, .cfgSotp _, _, _ | .cfgSotp _, .cfgSres _, _, _ | .cfgSotp _, .cfgShtr _, _, _ =>
    exact bytesAfter_congr hboth hboth' (fun _ => rfl) (fun _ => rfl) (fun _ => rfl) b

/-- Of two mutators of one field the last wins. -/
theorem cfgAfter_last {m n : Instr} (hm : isMutator m = true) (hn : isMutator n = true)
    (heq : mnemonicOf m = mnemonicOf n) (b : Byte) : cfgAfter n (cfgAfter m b) = cfgAfter n b := by
  have hboth : ∀ x ∈ [m, n], isMutator x = true := List.forall_mem_cons.2 ⟨hm, List.forall_mem_singleton.2 hn⟩
  have hlast : ∀ x ∈ [n], isMutator x = true := List.forall_mem_singleton.2 hn
  match m, n, hm, hn with
  | .cfgSres _, .cfgSres _, _, _ | .cfgShtr _, .cfgShtr _, _, _ | .cfgSotp _, .cfgSotp _, _, _ =>
    exact bytesAfter_congr hboth hlast (fun _ => rfl) (fun _ => rfl) (fun _ => rfl) b
  | .cfgSres _, .cfgShtr _, _, _ | .cfgSres _, .cfgSotp _, _, _ | .cfgShtr _, .cfgSres _, _, _
  | .cfgShtr _, .cfgSotp _, _, _ | .cfgSotp _, .cfgSres _, _, _ | .cfgSotp _, .cfgShtr _, _, _ =>
    simp [mnemonicOf] at heq

/-- After a mutator, an accessor of another field answers what it answered before. -/
theorem respOf_accessor_of_other_field {m a : Instr} (h :
      ((∃ k, m = .cfgSres k) ∧ a ∈ [Instr.cfgGvdd, .cfgGhtr, .cfgGotp]) ∨
      ((∃ e, m = .cfgShtr e) ∧ a ∈ [Instr.cfgGres, .cfgGvdd, .cfgGotp]) ∨
      ((∃ e, m = .cfgSotp e) ∧ a ∈ [Instr.cfgGres, .cfgGvdd, .cfgGhtr])) (c : Byte) (b : Byte) :
    isMutator m = true ∧ respOf a c (.loaded (cfgAfter m b)) = respOf a c (.loaded b) := by
  have answers {n : Nat} {v v' : BitVec n} (hv : v = v') : executedResp (zext16 v) = executedResp (zext16 v') := by
    rw [hv]
  simp only [List.mem_cons, List.not_mem_nil, or_false] at h
  rcases h with ⟨⟨k, rfl⟩, ha⟩ | ⟨⟨e, rfl⟩, ha⟩ | ⟨⟨e, rfl⟩, ha⟩
  case inl =>
    obtain ⟨-, hvdd, -, hhtr, hotp⟩ := setRes_fields k b
    rcases ha with rfl | rfl | rfl
    · exact ⟨rfl, answers hvdd⟩
    · exact ⟨rfl, answers hhtr⟩
    · exact ⟨rfl, answers hotp⟩
  case inr.inl =>
    obtain ⟨hres, hvdd, -, -, hotp⟩ := setHtr_fields e b
    rcases ha with rfl | rfl | rfl
    · exact ⟨rfl, answers hres⟩
    · exact ⟨rfl, answers hvdd⟩
    · exact ⟨rfl, answers hotp⟩
  case inr.inr =>
    obtain ⟨hres, hvdd, -, hhtr, -⟩ := setOtp_fields e b
    rcases ha with rfl | rfl | rfl
    · exact ⟨rfl, answers hres⟩
    · exact ⟨rfl, answers hvdd⟩
    · exact ⟨rfl, answers hhtr⟩

theorem executable_of_loaded {i : Instr} {s : State} {b : Byte} (hcfg : s.cfg = .loaded b) : Executable i s :=
  fun _ => cfgValid_of_loaded s b hcfg

/-- What a mutator leaves, as the next state. -/
theorem eq_of_exec_mutator {m : Instr} (hm : isMutator m = true) {s t : State} {b : Byte} (hcfg : s.cfg = .loaded b)
    (h : exec m s = .next t) : t = afterAnswer 0x0000 (writeCfg (cfgAfter m b) s) :=
  Host.Outcome.next.inj (h.symm.trans (exec_mutator hm hcfg))

/-- Settles O41, by the effects of the mutators on the byte and its fields. -/
theorem codecLaws : Obligations.CodecLaws := by
  refine ⟨fun k s b hcfg => ⟨_, exec_cfgSres_of_loaded hcfg k, ?getRes⟩,
    fun e s b hcfg => ⟨_, exec_cfgShtr_of_loaded hcfg e, ?getHtr⟩,
    fun e s b hcfg => ⟨_, exec_cfgSotp_of_loaded hcfg e, ?getOtp⟩, fun m a s t u b hcfg hfields ht hu => ?independent,
    fun m s t b hcfg hm h => ?idempotent, fun m n s t t' u b hcfg hm hn hne ht hu ht' => ?commute,
    fun m n s t b hcfg hm hn heq ht => ?last⟩
  case getRes =>
    obtain ⟨hres, -⟩ := setRes_fields k b
    rw [exec_cfgGres_of_loaded rfl, hres]; rfl
  case getHtr =>
    obtain ⟨-, -, -, hhtr, -⟩ := setHtr_fields e b
    rw [exec_cfgGhtr_of_loaded rfl, hhtr]; rfl
  case getOtp =>
    obtain ⟨-, -, -, -, hotp⟩ := setOtp_fields e b
    rw [exec_cfgGotp_of_loaded rfl, hotp]; rfl
  case independent =>
    obtain ⟨hm, hresp⟩ := respOf_accessor_of_other_field hfields s.crc b
    obtain rfl := eq_of_exec_mutator hm hcfg ht
    obtain rfl := Host.Outcome.next.inj ((exec_of_executable (executable_of_loaded hcfg)).symm.trans hu)
    refine ⟨_, exec_of_executable (executable_of_loaded rfl), ?_⟩
    rw [executed, executed, hcfg]
    exact congrArg some hresp
  case idempotent =>
    exact commandsButAddAreIdempotent m s t (by rintro x rfl; cases hm) h
  case commute =>
    obtain rfl := eq_of_exec_mutator hm hcfg ht
    obtain rfl := eq_of_exec_mutator hn hcfg ht'
    obtain rfl := eq_of_exec_mutator hn rfl hu
    rw [exec_mutator hm rfl, cfgAfter_comm hm hn hne]
    rfl
  case last =>
    obtain rfl := eq_of_exec_mutator hm hcfg ht
    rw [exec_mutator hn rfl, exec_mutator hn hcfg, cfgAfter_last hm hn heq]
    rfl

/-- The byte that a presented word leaves in a loaded `CFG`: a rejected word keeps it. -/
def cfgAfterWord (w : CmdWord) (b : Byte) : Byte :=
  match decode w with
  | .error _ => b
  | .ok i => cfgAfter i b

theorem step_present_cfg {w : CmdWord} {s t : State} {b : Byte} (hcfg : s.cfg = .loaded b)
    (h : step (present w s) = .next t) : t.cfg = .loaded (cfgAfterWord w b) := by
  rw [step_of_command (currentMove_present s w), consume_present] at h
  cases hw : decode w with
  | error e =>
    rw [hw] at h
    obtain ⟨-, hkept, -⟩ := raise_next h
    rw [hkept, hcfg, cfgAfterWord, hw]
  | ok i =>
    rw [hw] at h
    rw [exec_cfg hcfg h, cfgAfterWord, hw]

theorem cfgAfterWord_of_decode {w : CmdWord} {i : Instr} (h : decode w = .ok i) (b : Byte) :
    cfgAfterWord w b = cfgAfter i b := by rw [cfgAfterWord, h]

theorem cfgAfter_of_reader {i : Instr} (hload : isLoad i = false) (hmut : isMutator i = false) (b : Byte) :
    cfgAfter i b = b :=
  ConfigRegister.loaded.inj ((configAfter_loaded i b).symm.trans (configAfter_of_reader hload hmut _))

/-- A word that is neither CFG.LOAD nor a mutator keeps the byte. -/
theorem cfgAfterWord_of_reader {w : CmdWord} (hload : ∀ x, decode w ≠ .ok (.cfgLoad x))
    (hmut : ∀ i, decode w = .ok i → isMutator i = false) (b : Byte) : cfgAfterWord w b = b := by
  cases hw : decode w with
  | error e => rw [cfgAfterWord, hw]
  | ok i =>
    have hnoLoad : isLoad i = false := by
      cases i with
      | cfgLoad x => exact absurd hw (hload x)
      | _ => rfl
    rw [cfgAfterWord_of_decode hw, cfgAfter_of_reader hnoLoad (hmut i hw)]

/-! Outside its own bits a mutator keeps the byte: a finite fact about the operand and the byte. -/

theorem setRes_and_mask : ∀ (k : BitVec 2) (b : Byte), setRes k b &&& 0x7E = b &&& 0x7E := by decide +kernel
theorem setHtr_and_mask : ∀ (e : Bool) (b : Byte), setHtr e b &&& 0xFB = b &&& 0xFB := by decide +kernel
theorem setOtp_and_mask : ∀ (e : Bool) (b : Byte), setOtp e b &&& 0xFD = b &&& 0xFD := by decide +kernel

/-- A response without `ok` is that of a rejection, which keeps `CFG` and `CFG_VALID`. -/
theorem cfg_of_rejected {w : CmdWord} {s t : State} {r : Resp} (h : step (present w s) = .next t)
    (hr : t.resp = some r) (hok : r.ok = false) : t.cfg = s.cfg := by
  obtain ⟨t', r', hstep, hresp, -, hexecuted, -⟩ := step_present_response w s
  obtain rfl := Host.Outcome.next.inj (hstep.symm.trans h)
  obtain rfl := Option.some.inj (hresp.symm.trans hr)
  have hcode : raisedCode w s ≠ 0b00 := fun hzero => Bool.false_ne_true (hok.symm.trans (hexecuted.2 hzero))
  obtain rfl := Host.Outcome.next.inj ((step_present_of_raisedCode hcode).symm.trans h)
  rfl

/-- Settles O40: a presented word leaves `cfgAfterWord` of the byte, whose read-only fields no word but a CFG.LOAD
changes. -/
theorem reservedBitsArePreserved : Obligations.ReservedBitsArePreserved := by
  refine ⟨fun w s t b hcfg hload h => ⟨cfgAfterWord w b, step_present_cfg hcfg h, ?readOnly, ?res, ?htr, ?otp,
    fun hmut => cfgAfterWord_of_reader hload hmut b⟩, fun w s t r h hr hok => cfg_of_rejected h hr hok⟩
  case readOnly =>
    obtain ⟨b', hcfg', hvdd, hreserved⟩ := step_present_readOnlyFields hcfg hload h
    obtain rfl := ConfigRegister.loaded.inj (hcfg'.symm.trans (step_present_cfg hcfg h))
    rw [readOnlyBits_eq, readOnlyBits_eq, hvdd, hreserved]
  case res => rintro ⟨k, hw⟩; rw [cfgAfterWord_of_decode hw]; exact setRes_and_mask k b
  case htr => rintro ⟨e, hw⟩; rw [cfgAfterWord_of_decode hw]; exact setHtr_and_mask e b
  case otp => rintro ⟨e, hw⟩; rw [cfgAfterWord_of_decode hw]; exact setOtp_and_mask e b

/-- Words that are no CFG.LOAD run through and keep VDD and the reserved bits of a loaded byte (R68). -/
theorem runWords_readOnlyFields {ws : List CmdWord} (hload : ∀ w ∈ ws, ∀ x, decode w ≠ .ok (.cfgLoad x)) {s : State}
    {b : Byte} (hcfg : s.cfg = .loaded b) : ∃ u rs b', runWords ws s = some (u, rs) ∧ u.cfg = .loaded b' ∧
      vddField b' = vddField b ∧ reservedField b' = reservedField b := by
  induction ws generalizing s b with
  | nil => exact ⟨s, [], b, rfl, hcfg, rfl, rfl⟩
  | cons w ws ih =>
    obtain ⟨hw, hws⟩ := List.forall_mem_cons.1 hload
    obtain ⟨t, r, hstep, hresp, -⟩ := step_present_response w s
    obtain ⟨b₁, hcfg₁, hvdd₁, hreserved₁⟩ := step_present_readOnlyFields hcfg hw hstep
    obtain ⟨u, rs, b', hrun, hcfg', hvdd, hreserved⟩ := ih hws hcfg₁
    exact ⟨u, r :: rs, b', runWords_cons hstep hresp hrun, hcfg', hvdd.trans hvdd₁, hreserved.trans hreserved₁⟩

/-- Bits 6 to 3 in place, as their two fields. -/
theorem and_readOnlyMask : ∀ b : Byte, b &&& 0x78 = 0#1 ++ vddField b ++ reservedField b ++ 0#3 := by decide

/-- Settles O43, by induction on the words with the state general. -/
theorem rawKeepsTheLoadedReadOnlyBits : Obligations.RawKeepsTheLoadedReadOnlyBits := by
  intro ws s b hcfg hload
  obtain ⟨u, rs, b', hrun, hcfg', hvdd, hreserved⟩ := runWords_readOnlyFields hload hcfg
  refine ⟨u, rs, b', hrun, exec_cfgRaw_of_loaded hcfg', ?_⟩
  rw [and_readOnlyMask, and_readOnlyMask, hvdd, hreserved]

end Sys2Proof.Machine
end

section
/-! PROOFS. The patterns of binary32 (spec/42_reading_decoder.md R74): what a pattern counts in units of 2^-149, and
what `fl32` makes of a rational: a significand of at most 24 bits over the bits that do not fit it. -/

namespace Sys2Proof.Machine

open Sys2Proof.Safety

/-! Patterns. -/

/-- The units that 31 exponent and fraction bits stand for. -/
def magnitudeUnits (p : Nat) : Nat :=
  if p / 2 ^ 23 = 0 then p % 2 ^ 23 else (2 ^ 23 + p % 2 ^ 23) * 2 ^ (p / 2 ^ 23 - 1)

theorem units32_eq (f : Bits32) : units32 f =
    if f.getLsbD 31 then -(magnitudeUnits (f.toNat % 2 ^ 31) : Int) else magnitudeUnits (f.toNat % 2 ^ 31) := by
  have hexponent : (f.extractLsb' 23 8).toNat = f.toNat % 2 ^ 31 / 2 ^ 23 := by
    rw [BitVec.extractLsb'_toNat, Nat.shiftRight_eq_div_pow]; omega
  have hfraction : (f.extractLsb' 0 23).toNat = f.toNat % 2 ^ 31 % 2 ^ 23 := by
    rw [BitVec.extractLsb'_toNat, Nat.shiftRight_zero]; omega
  simp only [units32, magnitudeUnits, hexponent, hfraction]

theorem finite32_iff (f : Bits32) : finite32 f = true ↔ f.toNat % 2 ^ 31 < 0x7F800000 := by
  rw [finite32, decide_eq_true_iff, Ne, ← BitVec.toNat_inj, BitVec.extractLsb'_toNat, Nat.shiftRight_eq_div_pow]
  have hones : (0xFF : BitVec 8).toNat = 255 := rfl
  omega

/-- A significand over `k` bits: adding it to the exponent field counts as that many units. -/
theorem magnitudeUnits_scaled {k m : Nat} (hm : m ≤ 2 ^ 24) (hnormal : k = 0 ∨ 2 ^ 23 ≤ m) :
    magnitudeUnits (k * 2 ^ 23 + m) = m * 2 ^ k := by
  rcases Nat.lt_or_ge m (2 ^ 23) with hlt | hge
  case inl =>
    obtain rfl : k = 0 := by omega
    rw [Nat.zero_mul, Nat.zero_add, magnitudeUnits, if_pos (Nat.div_eq_of_lt hlt), Nat.mod_eq_of_lt hlt, pow_zero,
      Nat.mul_one]
  case inr =>
    rcases hm.lt_or_eq with hlt | rfl
    · have hexponent : (k * 2 ^ 23 + m) / 2 ^ 23 = k + 1 := by omega
      have hfraction : 2 ^ 23 + (k * 2 ^ 23 + m) % 2 ^ 23 = m := by omega
      rw [magnitudeUnits, hexponent, hfraction, if_neg k.succ_ne_zero, Nat.add_sub_cancel]
    · have hexponent : (k * 2 ^ 23 + 2 ^ 24) / 2 ^ 23 = k + 2 := by omega
      have hfraction : 2 ^ 23 + (k * 2 ^ 23 + 2 ^ 24) % 2 ^ 23 = 2 ^ 23 := by omega
      rw [magnitudeUnits, hexponent, hfraction, if_neg (by omega), Nat.add_sub_assoc (by decide)]
      ring

/-- The units of a pattern are a number of 24 bits over some lower bits. -/
theorem magnitudeUnits_eq (p : Nat) : ∃ m k, m < 2 ^ 24 ∧ magnitudeUnits p = m * 2 ^ k := by
  have hlt : p % 2 ^ 23 < 2 ^ 23 := Nat.mod_lt _ (by decide)
  rw [magnitudeUnits]
  split
  · exact ⟨p % 2 ^ 23, 0, by omega, by simp⟩
  · exact ⟨2 ^ 23 + p % 2 ^ 23, p / 2 ^ 23 - 1, by omega, rfl⟩

/-- At and above 2^23 multiples of 2^k, a finite number is one of these multiples. -/
theorem units32_dvd_or_lt (f : Bits32) (k : Nat) :
    (2 ^ k : Int) ∣ units32 f ∨ |units32 f| < 2 ^ (23 + k) := by
  obtain ⟨m, j, hm, hmag⟩ := magnitudeUnits_eq (f.toNat % 2 ^ 31)
  have habs : |units32 f| = m * 2 ^ j := by
    rw [units32_eq, hmag]; split <;> simp
  rcases Nat.lt_or_ge j k with hjk | hkj
  · right
    rw [habs]
    calc (m : Int) * 2 ^ j < 2 ^ 24 * 2 ^ j := by gcongr; exact_mod_cast hm
      _ = 2 ^ (23 + (j + 1)) := by ring
      _ ≤ 2 ^ (23 + k) := by gcongr <;> omega
  · left
    rw [← dvd_abs, habs]
    exact (pow_dvd_pow 2 hkj).mul_left _

/-! `fl32`. -/

/-- The significand of the rounded quotient. -/
def significand (n d : Nat) : Nat := roundHalfEven (n * 2 ^ 149) (d * 2 ^ excessBits n d)

section Rounded

variable {n d : Nat} (hd : 0 < d)
include hd

theorem excessBits_le {t : Nat} (h : n * 2 ^ 149 < 2 ^ (24 + t) * d) : excessBits n d ≤ t := by
  have hq : n * 2 ^ 149 / d < 2 ^ (24 + t) := (Nat.div_lt_iff_lt_mul hd).2 h
  rw [excessBits]
  rcases Nat.eq_zero_or_pos (n * 2 ^ 149 / d) with hzero | hpos
  · rw [hzero]; exact Nat.zero_le _
  · have := (Nat.log2_lt hpos.ne').2 hq
    omega

theorem lt_of_excessBits : n * 2 ^ 149 < 2 ^ 24 * (d * 2 ^ excessBits n d) := by
  have hq : n * 2 ^ 149 / d < 2 ^ (24 + excessBits n d) :=
    Nat.lt_log2_self.trans_le (Nat.pow_le_pow_right (by decide) (by rw [excessBits]; omega))
  calc n * 2 ^ 149 < 2 ^ (24 + excessBits n d) * d := (Nat.div_lt_iff_lt_mul hd).1 hq
    _ = _ := by ring

theorem le_of_excessBits (h : 0 < excessBits n d) : 2 ^ 23 * (d * 2 ^ excessBits n d) ≤ n * 2 ^ 149 := by
  have hlog : Nat.log2 (n * 2 ^ 149 / d) = 23 + excessBits n d := by rw [excessBits] at h ⊢; omega
  have hne : n * 2 ^ 149 / d ≠ 0 := by rintro hzero; rw [hzero, Nat.log2_zero] at hlog; omega
  have hq := Nat.log2_self_le hne
  rw [hlog, Nat.le_div_iff_mul_le hd] at hq
  calc _ = 2 ^ (23 + excessBits n d) * d := by ring
    _ ≤ _ := hq

theorem unit_pos : 0 < d * 2 ^ excessBits n d := Nat.mul_pos hd (Nat.two_pow_pos _)

theorem significand_le : significand n d ≤ 2 ^ 24 := by
  obtain ⟨-, hnear⟩ := roundHalfEven_near (n * 2 ^ 149) (d * 2 ^ excessBits n d) (unit_pos hd)
  have hlt := lt_of_excessBits (n := n) hd
  change 2 * (significand n d * _) ≤ _ at hnear
  by_contra hgt
  have hmul := Nat.mul_le_mul_right (d * 2 ^ excessBits n d) (Nat.lt_of_not_le hgt)
  linarith [unit_pos (n := n) hd]

theorem le_significand (h : 0 < excessBits n d) : 2 ^ 23 ≤ significand n d := by
  obtain ⟨hnear, -⟩ := roundHalfEven_near (n * 2 ^ 149) (d * 2 ^ excessBits n d) (unit_pos hd)
  have hle := le_of_excessBits (n := n) hd h
  change _ ≤ 2 * (significand n d * _) + _ at hnear
  by_contra hlt
  have hmul := Nat.mul_le_mul_right (d * 2 ^ excessBits n d) (Nat.lt_of_not_le hlt)
  linarith [unit_pos (n := n) hd]

end Rounded

/-! The pattern of `fl32`. -/

/-- The rounded significand is added to the exponent field, short of infinity. -/
theorem magnitude32_eq (n d : Nat) :
    magnitude32 n d = min (excessBits n d * 2 ^ 23 + significand n d) 0x7F800000 := rfl

theorem magnitude32_le (n d : Nat) : magnitude32 n d ≤ 0x7F800000 := Nat.min_le_right _ _

theorem fl32_toNat (n : Int) (d : Nat) :
    (fl32 n d).toNat = magnitude32 n.natAbs d + if n < 0 then 2 ^ 31 else 0 := by
  have hle := magnitude32_le n.natAbs d
  rw [fl32, BitVec.toNat_ofNat, Nat.mod_eq_of_lt]
  split <;> omega

theorem fl32_mod (n : Int) (d : Nat) : (fl32 n d).toNat % 2 ^ 31 = magnitude32 n.natAbs d := by
  have hle := magnitude32_le n.natAbs d
  rw [fl32_toNat]
  split <;> omega

theorem fl32_sign (n : Int) (d : Nat) : (fl32 n d).getLsbD 31 = decide (n < 0) := by
  have hle := magnitude32_le n.natAbs d
  rw [BitVec.getLsbD, Nat.testBit_eq_decide_div_mod_eq, fl32_toNat, decide_eq_decide]
  split <;> omega

/-- Without overflow the magnitude is the significand added to the exponent field. -/
theorem magnitude32_of_finite {n : Int} {d : Nat} (h : finite32 (fl32 n d) = true) : magnitude32 n.natAbs d =
    excessBits n.natAbs d * 2 ^ 23 + significand n.natAbs d := by
  rw [finite32_iff, fl32_mod, magnitude32_eq] at h
  rw [magnitude32_eq]
  exact Nat.min_eq_left (by omega)

/-- Without overflow `fl32` gives its significand, over the bits that do not fit it, with the sign of the rational. -/
theorem units32_fl32 {n : Int} {d : Nat} (hd : 0 < d) (h : finite32 (fl32 n d) = true) : units32 (fl32 n d) =
    if n < 0 then -(significand n.natAbs d * 2 ^ excessBits n.natAbs d : Int)
    else significand n.natAbs d * 2 ^ excessBits n.natAbs d := by
  have hnormal : excessBits n.natAbs d = 0 ∨ 2 ^ 23 ≤ significand n.natAbs d :=
    (Nat.eq_zero_or_pos _).imp_right (le_significand hd)
  rw [units32_eq, fl32_sign, fl32_mod, magnitude32_of_finite h, magnitudeUnits_scaled (significand_le hd) hnormal]
  simp

/-- A rational well below the overflow threshold does not overflow. -/
theorem finite32_fl32 {n : Int} {d t : Nat} (hd : 0 < d) (ht : t ≤ 252)
    (h : n.natAbs * 2 ^ 149 < 2 ^ (24 + t) * d) : finite32 (fl32 n d) = true := by
  have hk : excessBits n.natAbs d ≤ 252 := (excessBits_le hd h).trans ht
  have hm : significand n.natAbs d ≤ 2 ^ 24 := significand_le hd
  clear h
  rw [finite32_iff, fl32_mod, magnitude32_eq]
  exact (Nat.min_le_left _ _).trans_lt (by omega)

end Sys2Proof.Machine
end

section
/-! PROOFS. `fl32` rounds to nearest, ties to even (spec/00_scope.md R10, spec/42_reading_decoder.md R74). -/

namespace Sys2Proof.Machine

open Sys2Proof.Safety

/-- Halfway between two integers the even one is taken. -/
theorem roundHalfEven_even_of_tie {n d : Nat} (hd : 0 < d)
    (h : 2 * n = 2 * (roundHalfEven n d * d) + d ∨ 2 * (roundHalfEven n d * d) = 2 * n + d) :
    roundHalfEven n d % 2 = 0 := by
  have hdiv : n / d * d + n % d = n := by rw [Nat.mul_comm]; exact Nat.div_add_mod n d
  have hmod := Nat.mod_lt n hd
  by_cases htie : 2 * (n % d) = d
  · have hround : roundHalfEven n d = n / d + n / d % 2 := by
      simp only [roundHalfEven, htie, lt_irrefl, if_false]
    omega
  · have hround : roundHalfEven n d = n / d ∨ roundHalfEven n d = n / d + 1 ∧ d < 2 * (n % d) := by
      rcases Nat.lt_or_gt_of_ne htie with hlt | hgt
      · left; simp only [roundHalfEven, hlt, if_true]
      · right; simp only [roundHalfEven, hgt, hgt.not_gt, if_true, if_false, true_and]
    rcases hround with hround | ⟨hround, hgt⟩
    · rw [hround] at h; omega
    · rw [hround, Nat.add_mul, Nat.one_mul] at h; omega

/-- The rounded quotient is within half a unit, as one distance. -/
theorem roundHalfEven_dist {n d : Nat} (hd : 0 < d) : 2 * |(roundHalfEven n d : Int) * d - n| ≤ d := by
  obtain ⟨hlow, hhigh⟩ := roundHalfEven_near n d hd
  zify at hlow hhigh
  rcases abs_cases ((roundHalfEven n d : Int) * d - n) with ⟨habs, -⟩ | ⟨habs, -⟩
  · rw [habs]; linarith
  · rw [habs]; linarith

theorem roundHalfEven_even_of_dist {n d : Nat} (hd : 0 < d) (h : 2 * |(roundHalfEven n d : Int) * d - n| = d) :
    roundHalfEven n d % 2 = 0 := by
  refine roundHalfEven_even_of_tie hd ?_
  zify
  rcases abs_cases ((roundHalfEven n d : Int) * d - n) with ⟨habs, -⟩ | ⟨habs, -⟩
  · right; rw [habs] at h; linarith
  · left; rw [habs] at h; linarith

/-- A nearest integer multiple of `d`, compared with another: it is no farther, and equally far only halfway between. -/
theorem nearest_multiple {N d m : Int} (hnear : 2 * |m * d - N| ≤ d) (z : Int) :
    |m * d - N| ≤ |z * d - N| ∧ (|m * d - N| = |z * d - N| → z ≠ m → 2 * |m * d - N| = d) := by
  by_cases hz : z = m
  · subst hz; exact ⟨le_rfl, fun _ hne => absurd rfl hne⟩
  · have hdnonneg : 0 ≤ d := (mul_nonneg (by decide) (abs_nonneg _)).trans hnear
    have hgap : d ≤ |z * d - m * d| := by
      rw [← sub_mul, abs_mul, abs_of_nonneg hdnonneg]
      exact le_mul_of_one_le_left hdnonneg (Int.one_le_abs (sub_ne_zero.2 hz))
    have htri : |z * d - m * d| ≤ |z * d - N| + |m * d - N| := by
      rw [abs_sub_comm (m * d) N]; exact abs_sub_le _ _ _
    exact ⟨by linarith, fun heq _ => by linarith⟩

section Rounded

variable {n d : Nat} (hd : 0 < d)
include hd

theorem significand_dist : 2 * |(significand n d : Int) * (d * 2 ^ excessBits n d : Nat) - (n * 2 ^ 149 : Nat)| ≤
    (d * 2 ^ excessBits n d : Nat) := roundHalfEven_dist (unit_pos hd)

theorem significand_even_of_dist (h : 2 * |(significand n d : Int) * (d * 2 ^ excessBits n d : Nat) -
    (n * 2 ^ 149 : Nat)| = (d * 2 ^ excessBits n d : Nat)) : significand n d % 2 = 0 :=
  roundHalfEven_even_of_dist (unit_pos hd) h

/-- Among the integers that binary32 can count the rounded one is nearest to the quotient, and where another is equally
near its significand is even. -/
theorem significand_nearest {y : Int} (hy : (2 ^ excessBits n d : Int) ∣ y ∨ y < 2 ^ (23 + excessBits n d)) :
    |(significand n d * 2 ^ excessBits n d : Int) * d - (n * 2 ^ 149 : Nat)| ≤ |y * d - (n * 2 ^ 149 : Nat)| ∧
    (|(significand n d * 2 ^ excessBits n d : Int) * d - (n * 2 ^ 149 : Nat)| = |y * d - (n * 2 ^ 149 : Nat)| →
      y ≠ significand n d * 2 ^ excessBits n d → significand n d % 2 = 0) := by
  have hscale (z : Int) : z * 2 ^ excessBits n d * d = z * (d * 2 ^ excessBits n d : Nat) := by push_cast; ring
  have hmultiple (z : Int) := nearest_multiple (significand_dist (n := n) hd) z
  rw [hscale]
  by_cases hdvd : (2 ^ excessBits n d : Int) ∣ y
  case pos =>
    obtain ⟨z, rfl⟩ := hdvd
    rw [mul_comm _ z, hscale]
    obtain ⟨hle, htie⟩ := hmultiple z
    exact ⟨hle, fun heq hne => significand_even_of_dist hd (htie heq fun hz => hne (by rw [hz]))⟩
  case neg =>
    have hlt := hy.resolve_left hdvd
    have hk : 0 < excessBits n d := Nat.pos_of_ne_zero fun hzero => hdvd (by rw [hzero, pow_zero]; exact one_dvd y)
    have hbelow : (2 ^ 23 : Int) * (d * 2 ^ excessBits n d : Nat) ≤ (n * 2 ^ 149 : Nat) := by
      exact_mod_cast le_of_excessBits (n := n) hd hk
    have hy' : y * d < 2 ^ 23 * (d * 2 ^ excessBits n d : Nat) := by
      calc y * d < 2 ^ (23 + excessBits n d) * d := by gcongr
        _ = _ := by push_cast; ring
    obtain ⟨hle, -⟩ := hmultiple (2 ^ 23)
    rw [abs_of_nonpos (by linarith : (2 ^ 23 : Int) * (d * 2 ^ excessBits n d : Nat) - (n * 2 ^ 149 : Nat) ≤ 0)] at hle
    rw [abs_of_nonpos (by linarith : y * d - (n * 2 ^ 149 : Nat) ≤ 0)]
    exact ⟨by linarith, fun heq => absurd heq (by linarith)⟩

end Rounded

/-- The distance of a pattern's value from a rational, over the common denominator. -/
theorem abs_value32_sub (f : Bits32) (n : Int) {d : Nat} (hd : 0 < d) :
    |value32 f - (n : ℚ) / d| = (|units32 f * d - n * 2 ^ 149| : Int) / (2 ^ 149 * d) := by
  have hd' : (0 : ℚ) < d := by exact_mod_cast hd
  have hcommon : value32 f - (n : ℚ) / d = ((units32 f * d - n * 2 ^ 149 : Int) : ℚ) / (2 ^ 149 * d) := by
    rw [value32, div_sub_div _ _ (by positivity) hd'.ne']
    simp only [Int.cast_sub, Int.cast_mul, Int.cast_pow, Int.cast_ofNat, Int.cast_natCast, mul_comm]
  rw [hcommon, abs_div, Int.cast_abs, abs_of_pos (by positivity : (0 : ℚ) < 2 ^ 149 * d)]

theorem value32_inj {f g : Bits32} (h : units32 f = units32 g) : value32 f = value32 g := by rw [value32, value32, h]

/-- The distance of a signed number from a rational of that sign is that of the magnitudes. -/
theorem abs_signed_sub (n u : Int) (d : Nat) :
    |(if n < 0 then -u else u) * d - n * 2 ^ 149| = |u * d - (n.natAbs * 2 ^ 149 : Nat)| := by
  have hN : ((n.natAbs * 2 ^ 149 : Nat) : Int) = |n| * 2 ^ 149 := by
    rw [Nat.cast_mul, Int.natCast_natAbs, Nat.cast_pow, Nat.cast_ofNat]
  rw [hN]
  split
  case isTrue hneg => rw [abs_of_neg hneg, ← abs_neg]; congr 1; ring
  case isFalse hpos => rw [abs_of_nonneg (not_lt.1 hpos)]

/-- Of all patterns `fl32` gives one nearest to the rational, distances counted in units; where another value is equally
near, the significand is even. -/
theorem fl32_nearest {n : Int} {d : Nat} (hd : 0 < d) (h : finite32 (fl32 n d) = true) (y : Bits32) :
    |units32 (fl32 n d) * d - n * 2 ^ 149| ≤ |units32 y * d - n * 2 ^ 149| ∧
    (|units32 (fl32 n d) * d - n * 2 ^ 149| = |units32 y * d - n * 2 ^ 149| → units32 y ≠ units32 (fl32 n d) →
      significand n.natAbs d % 2 = 0) := by
  obtain ⟨u, hu, habs⟩ : ∃ u, units32 y = (if n < 0 then -u else u) ∧ |u| = |units32 y| := by
    by_cases hneg : n < 0
    · exact ⟨-units32 y, by rw [if_pos hneg, neg_neg], abs_neg _⟩
    · exact ⟨units32 y, by rw [if_neg hneg], rfl⟩
  have hcount : (2 ^ excessBits n.natAbs d : Int) ∣ u ∨ u < 2 ^ (23 + excessBits n.natAbs d) := by
    have hy := units32_dvd_or_lt y (excessBits n.natAbs d)
    rw [← dvd_abs, ← habs, dvd_abs] at hy
    exact hy.imp_right (le_abs_self u).trans_lt
  obtain ⟨hle, htie⟩ := significand_nearest hd hcount
  rw [units32_fl32 hd h, hu, abs_signed_sub, abs_signed_sub]
  exact ⟨hle, fun heq hne => htie heq fun hsame => hne (by rw [hsame])⟩

/-- The last fraction bit is that of the significand. -/
theorem fl32_lastBit {n : Int} {d : Nat} (h : finite32 (fl32 n d) = true) :
    (fl32 n d).getLsbD 0 = decide (significand n.natAbs d % 2 = 1) := by
  rw [BitVec.getLsbD, Nat.testBit_eq_decide_div_mod_eq, fl32_toNat, magnitude32_of_finite h, decide_eq_decide]
  split <;> omega

/-- Settles O50: over the common denominator the distances are those in units, of which `fl32` takes the least. -/
theorem roundingIsToNearestEven : Obligations.RoundingIsToNearestEven := by
  intro n d y hd hfin _
  obtain ⟨hle, htie⟩ := fl32_nearest hd hfin y
  have hden : (0 : ℚ) < 2 ^ 149 * d := by positivity
  rw [abs_value32_sub _ n hd, abs_value32_sub _ n hd, div_le_div_iff_of_pos_right hden, div_left_inj' hden.ne',
    Int.cast_le, Int.cast_inj]
  refine ⟨hle, fun heq hne => ?_⟩
  have heven := htie heq fun h => hne (value32_inj h)
  rw [fl32_lastBit hfin, heven]
  rfl

end Sys2Proof.Machine
end

section
/-! PROOFS. The error of one binary32 operation, in exact values (spec/42_reading_decoder.md R74). A result below
2^(24+t) units is counted in steps of at most 2^t units, so it is off by at most half a step, and a multiple of 2^t
units is exact. -/

namespace Sys2Proof.Machine

open Sys2Proof.Safety

theorem natAbs_lt_of_abs_div_lt {n : Int} {d t : Nat} (hd : 0 < d) (h : |(n : ℚ) / d| < 2 ^ (24 + t) / 2 ^ 149) :
    n.natAbs * 2 ^ 149 < 2 ^ (24 + t) * d := by
  have hd' : (0 : ℚ) < d := by exact_mod_cast hd
  rw [abs_div, abs_of_pos hd', div_lt_div_iff₀ hd' (by positivity), ← Int.cast_abs, ← Int.natCast_natAbs] at h
  exact_mod_cast h

section Bounded

variable {n : Int} {d t : Nat} (hd : 0 < d) (ht : t ≤ 252) (h : |(n : ℚ) / d| < 2 ^ (24 + t) / 2 ^ 149)
include hd ht h

theorem finite32_fl32_of_lt : finite32 (fl32 n d) = true := finite32_fl32 hd ht (natAbs_lt_of_abs_div_lt hd h)

omit ht in
theorem excessBits_le_of_lt : excessBits n.natAbs d ≤ t := excessBits_le hd (natAbs_lt_of_abs_div_lt hd h)

/-- The units of the rounded number are a multiple of its step, and off by at most half a step. -/
theorem fl32_dist : (2 ^ excessBits n.natAbs d : Int) ∣ units32 (fl32 n d) ∧
    2 * |units32 (fl32 n d) * d - n * 2 ^ 149| ≤ (d : Int) * 2 ^ excessBits n.natAbs d := by
  have hunit : (d : Int) * 2 ^ excessBits n.natAbs d = (d * 2 ^ excessBits n.natAbs d : Nat) := by push_cast; rfl
  rw [units32_fl32 hd (finite32_fl32_of_lt hd ht h), abs_signed_sub, mul_assoc, mul_comm _ (d : Int), hunit]
  refine ⟨?_, significand_dist hd⟩
  split
  · exact (Int.dvd_mul_left ..).neg_right
  · exact Int.dvd_mul_left ..

/-- A result below 2^(24+t) units is off by at most 2^(t-1) units. -/
theorem fl32_error : |value32 (fl32 n d) - (n : ℚ) / d| ≤ 2 ^ t / 2 ^ 150 := by
  have hd' : (0 : ℚ) < d := by exact_mod_cast hd
  obtain ⟨-, hdist⟩ := fl32_dist hd ht h
  have hdist' : 2 * ((|units32 (fl32 n d) * d - n * 2 ^ 149| : Int) : ℚ) ≤ d * 2 ^ excessBits n.natAbs d := by
    exact_mod_cast hdist
  have hstep : (2 : ℚ) ^ excessBits n.natAbs d ≤ 2 ^ t :=
    pow_le_pow_right₀ (by norm_num) (excessBits_le_of_lt hd h)
  rw [abs_value32_sub _ n hd, div_le_div_iff₀ (by positivity) (by positivity)]
  generalize ((|units32 (fl32 n d) * d - n * 2 ^ 149| : Int) : ℚ) = dist at hdist' ⊢
  have hle : 2 * dist ≤ d * 2 ^ t := hdist'.trans (mul_le_mul_of_nonneg_left hstep hd'.le)
  linarith

/-- A multiple of 2^t units below 2^(24+t) of them is not rounded. -/
theorem fl32_exact {j : Int} (hj : (n : ℚ) / d = j * 2 ^ t / 2 ^ 149) : value32 (fl32 n d) = (n : ℚ) / d := by
  have hd' : (0 : ℚ) < d := by exact_mod_cast hd
  have hn : n * 2 ^ 149 = j * 2 ^ t * d := by
    rw [div_eq_div_iff hd'.ne' (by positivity)] at hj
    exact_mod_cast hj
  obtain ⟨hdvd, hdist⟩ := fl32_dist hd ht h
  have hdvd' : (2 ^ excessBits n.natAbs d : Int) ∣ units32 (fl32 n d) - j * 2 ^ t :=
    hdvd.sub ((pow_dvd_pow 2 (excessBits_le_of_lt hd h)).mul_left j)
  obtain ⟨w, hw⟩ := hdvd'
  have hzero : w = 0 := by
    by_contra hne
    have hstep : (0 : Int) < 2 ^ excessBits n.natAbs d * d := by positivity
    rw [hn, ← sub_mul, hw, mul_right_comm, abs_mul, abs_of_pos hstep] at hdist
    have hmul := le_mul_of_one_le_right hstep.le (Int.one_le_abs hne)
    linarith
  have hunits : units32 (fl32 n d) = j * 2 ^ t := by rw [hzero, mul_zero] at hw; linarith
  rw [hj, value32, hunits]
  push_cast
  rfl

end Bounded

/-! The operations of R74, in exact values. -/

theorem mul32_quotient (a b : Bits32) :
    ((units32 a * units32 b : Int) : ℚ) / (2 ^ 149 * 2 ^ 149 : Nat) = value32 a * value32 b := by
  rw [value32, value32, div_mul_div_comm]
  simp only [Int.cast_mul, Nat.cast_mul, Nat.cast_pow, Nat.cast_ofNat]

theorem add32_quotient (a b : Bits32) :
    ((units32 a + units32 b : Int) : ℚ) / (2 ^ 149 : Nat) = value32 a + value32 b := by
  rw [value32, value32, ← add_div]
  simp only [Int.cast_add, Nat.cast_pow, Nat.cast_ofNat]

section Operations

variable {a b : Bits32} {t : Nat} (ht : t ≤ 252)
include ht

theorem mul32_error (h : |value32 a * value32 b| < 2 ^ (24 + t) / 2 ^ 149) :
    |value32 (mul32 a b) - value32 a * value32 b| ≤ 2 ^ t / 2 ^ 150 := by
  rw [← mul32_quotient] at h ⊢
  exact fl32_error (by positivity) ht h

theorem mul32_exact (h : |value32 a * value32 b| < 2 ^ (24 + t) / 2 ^ 149) {j : Int}
    (hj : value32 a * value32 b = j * 2 ^ t / 2 ^ 149) : value32 (mul32 a b) = value32 a * value32 b := by
  rw [← mul32_quotient] at h hj ⊢
  exact fl32_exact (by positivity) ht h hj

theorem add32_error (h : |value32 a + value32 b| < 2 ^ (24 + t) / 2 ^ 149) :
    |value32 (add32 a b) - (value32 a + value32 b)| ≤ 2 ^ t / 2 ^ 150 := by
  rw [← add32_quotient] at h ⊢
  exact fl32_error (by positivity) ht h

theorem add32_exact (h : |value32 a + value32 b| < 2 ^ (24 + t) / 2 ^ 149) {j : Int}
    (hj : value32 a + value32 b = j * 2 ^ t / 2 ^ 149) : value32 (add32 a b) = value32 a + value32 b := by
  rw [← add32_quotient] at h hj ⊢
  exact fl32_exact (by positivity) ht h hj

theorem finite32_add32 (h : |value32 a + value32 b| < 2 ^ (24 + t) / 2 ^ 149) : finite32 (add32 a b) = true := by
  rw [← add32_quotient] at h
  exact finite32_fl32_of_lt (by positivity) ht h

end Operations

end Sys2Proof.Machine
end

section
/-! PROOFS. The constants of the conversion, and the quotient that is never rounded (spec/42_reading_decoder.md R74). -/

namespace Sys2Proof.Machine

open Sys2Proof.Safety

/-! The constants, in units of 2^-149. -/

theorem units32_constants : units32 tScale32 = 5757993 * 2 ^ 134 ∧ units32 tOffset32 = -6140723 * 2 ^ 132 ∧
    units32 hScale32 = 125 * 2 ^ 149 ∧ units32 hOffset32 = -6 * 2 ^ 149 := by decide +kernel

theorem value32_tScale32 : value32 tScale32 = 5757993 / 32768 := by
  obtain ⟨h, -⟩ := units32_constants
  rw [value32, h]; norm_num

theorem value32_tOffset32 : value32 tOffset32 = -6140723 / 131072 := by
  obtain ⟨-, h, -⟩ := units32_constants
  rw [value32, h]; norm_num

theorem value32_hScale32 : value32 hScale32 = 125 := by
  obtain ⟨-, -, h, -⟩ := units32_constants
  rw [value32, h]; norm_num

theorem value32_hOffset32 : value32 hOffset32 = -6 := by
  obtain ⟨-, -, -, h⟩ := units32_constants
  rw [value32, h]; norm_num

/-- Settles O51: the values by the units of the patterns, the two roundings by evaluation. -/
theorem binaryConstants : Obligations.BinaryConstants :=
  ⟨rfl, by decide +kernel, value32_tScale32, rfl, by decide +kernel, value32_tOffset32, rfl, value32_hScale32, rfl,
    value32_hOffset32⟩

theorem word16_toNat_le (v : Word16) : (v.toNat : ℚ) ≤ 65535 := by
  have := v.isLt
  exact_mod_cast (by omega : v.toNat ≤ 65535)

/-- Settles O52: the quotient is `v` over 133 low bits, in units. -/
theorem fractionIsExact : Obligations.FractionIsExact := by
  intro v
  have hv := word16_toNat_le v
  have hfull : ((v.toNat : Int) : ℚ) / (fullScale : Nat) = (v.toNat : ℚ) / 65536 := by simp [fullScale]
  rw [fraction32, fl32_exact (t := 133) (j := v.toNat) (by decide) (by decide), hfull]
  · rw [hfull, abs_of_nonneg (by positivity)]
    norm_num; linarith
  · rw [hfull]; norm_num; ring

end Sys2Proof.Machine
end

section
/-! PROOFS. The physical values against the exact formulas (spec/42_reading_decoder.md R73 to R75, R81): humidity is not
rounded at all; temperature is rounded twice, by half a step of 2^-16 and half a step of 2^-17 at most while it is below
128 degrees, and the values above are few. -/

namespace Sys2Proof.Machine

open Sys2Proof.Safety

theorem hExact_eq (v : Word16) : hExact v = -6 + 125 * (v.toNat : ℚ) / 65536 := by rw [hExact]; norm_num

theorem tExact_eq (v : Word16) : tExact v = -46.85 + 175.72 * (v.toNat : ℚ) / 65536 := rfl

theorem value32_scaled_humidity (v : Word16) : value32 (scaled32 .humidity v) = 125 * ((v.toNat : ℚ) / 65536) := by
  have hv := word16_toNat_le v
  have hproduct : value32 (scale32 .humidity) * value32 (fraction32 v) = 125 * ((v.toNat : ℚ) / 65536) := by
    rw [fractionIsExact v]; congr 1; exact value32_hScale32
  rw [scaled32, mul32_exact (t := 133) (j := 125 * v.toNat) (by decide), hproduct]
  · rw [hproduct, abs_of_nonneg (by positivity)]
    norm_num; linarith
  · rw [hproduct]; push_cast; ring

theorem value32_sum_humidity (v : Word16) :
    value32 (offset32 .humidity) + value32 (scaled32 .humidity v) = hExact v := by
  have hoffset : value32 (offset32 .humidity) = -6 := value32_hOffset32
  rw [value32_scaled_humidity, hExact_eq, hoffset]; ring

theorem hExact_bounds (v : Word16) : -6 ≤ hExact v ∧ hExact v < 119 := by
  have hv := word16_toNat_le v
  have hv0 : (0 : ℚ) ≤ v.toNat := Nat.cast_nonneg _
  rw [hExact_eq]
  constructor <;> linarith

theorem abs_sum_humidity_lt (v : Word16) :
    |value32 (offset32 .humidity) + value32 (scaled32 .humidity v)| < 2 ^ (24 + 133) / 2 ^ 149 := by
  obtain ⟨hlow, hhigh⟩ := hExact_bounds v
  rw [value32_sum_humidity, abs_lt]
  norm_num
  constructor <;> linarith

/-- R81 (a): neither rounding of the humidity changes anything. -/
theorem value32_phys32_humidity (v : Word16) : value32 (phys32 .humidity v) = hExact v := by
  rw [phys32, add32_exact (j := 125 * v.toNat - 6 * 65536) (by decide) (abs_sum_humidity_lt v), value32_sum_humidity]
  rw [value32_sum_humidity, hExact_eq]; push_cast; ring

/-- Settles O53: every value, so that of a raw word in particular. -/
theorem humidityIsExact : Obligations.HumidityIsExact := fun raw => value32_phys32_humidity (valueOf raw)

/-! Temperature. -/

theorem value32_offset_temperature : value32 (offset32 .temperature) = -6140723 / 131072 := value32_tOffset32

/-- The product is off by half a step of 2^-16. -/
theorem scaled32_temperature_error (v : Word16) :
    |value32 (scaled32 .temperature v) - 5757993 / 32768 * ((v.toNat : ℚ) / 65536)| ≤ 1 / 2 ^ 17 := by
  have hv := word16_toNat_le v
  have hproduct : value32 (scale32 .temperature) * value32 (fraction32 v) =
      5757993 / 32768 * ((v.toNat : ℚ) / 65536) := by
    rw [fractionIsExact v]; congr 1; exact value32_tScale32
  have herror := mul32_error (a := scale32 .temperature) (b := fraction32 v) (t := 133) (by decide) (by
    rw [hproduct, abs_of_nonneg (by positivity)]
    norm_num; linarith)
  rw [hproduct] at herror
  exact herror.trans (by norm_num)

/-- Below 128 degrees the sum is off by half a step of 2^-17. -/
theorem phys32_temperature_error_below {v : Word16} (hv : v.toNat ≤ 65211) :
    |value32 (phys32 .temperature v) - tExact v| ≤ 7 / 409600 := by
  have hv' : (v.toNat : ℚ) ≤ 65211 := by exact_mod_cast hv
  have hv0 : (0 : ℚ) ≤ v.toNat := Nat.cast_nonneg _
  obtain ⟨hlow, hhigh⟩ := abs_le.1 (scaled32_temperature_error v)
  have herror := add32_error (a := offset32 .temperature) (b := scaled32 .temperature v) (t := 132) (by decide) (by
    rw [value32_offset_temperature, abs_lt]
    norm_num at hlow hhigh ⊢
    constructor <;> linarith)
  rw [value32_offset_temperature] at herror
  obtain ⟨hlow', hhigh'⟩ := abs_le.1 herror
  rw [phys32, tExact_eq, abs_le]
  norm_num at hlow hhigh hlow' hhigh' ⊢
  constructor <;> linarith

/-- The error of the temperature, in units of 2^-149 over 6553600 (which clears the denominators of R73). -/
def temperatureErrorUnits (v : Word16) : Int :=
  units32 (phys32 .temperature v) * 6553600 - (17572 * v.toNat - 307036160) * 2 ^ 149

theorem temperature_error_eq (v : Word16) :
    |value32 (phys32 .temperature v) - tExact v| = (|temperatureErrorUnits v| : Int) / (6553600 * 2 ^ 149) := by
  have hcommon (u x unit : ℚ) (hunit : unit ≠ 0) : u / unit - (-46.85 + 175.72 * x / 65536) =
      (u * 6553600 - (17572 * x - 307036160) * unit) / (6553600 * unit) := by
    field_simp; ring
  rw [value32, tExact_eq, hcommon _ _ _ (by positivity), abs_div, Int.cast_abs, temperatureErrorUnits,
    abs_of_pos (by positivity : (0 : ℚ) < 6553600 * 2 ^ 149)]
  simp only [Int.cast_sub, Int.cast_mul, Int.cast_pow, Int.cast_ofNat, Int.cast_natCast]

/-- The values at and above 128 degrees that a raw word can have, from 65212 up: each evaluated. -/
theorem temperatureErrorUnits_above : ∀ j < 81,
    |temperatureErrorUnits (BitVec.ofNat 16 (65212 + 4 * j))| ≤ 112 * 2 ^ 149 := by decide +kernel

theorem temperatureErrorUnits_worst : |temperatureErrorUnits 0xFF04| = 112 * 2 ^ 149 := by decide +kernel

/-- R81 (b), for the value of any raw word. -/
theorem phys32_temperature_error (raw : Word16) :
    |value32 (phys32 .temperature (valueOf raw)) - tExact (valueOf raw)| ≤ 7 / 409600 := by
  rcases Nat.lt_or_ge 65211 (valueOf raw).toNat with habove | hbelow
  case inr => exact phys32_temperature_error_below hbelow
  case inl =>
    have hvalue := valueOf_toNat raw
    have hraw := raw.isLt
    obtain ⟨j, hj, hword⟩ : ∃ j < 81, valueOf raw = BitVec.ofNat 16 (65212 + 4 * j) := by
      refine ⟨raw.toNat / 4 - 16303, by omega, BitVec.eq_of_toNat_eq ?_⟩
      rw [BitVec.toNat_ofNat]; omega
    have hunits : ((|temperatureErrorUnits (valueOf raw)| : Int) : ℚ) ≤ 112 * 2 ^ 149 := by
      rw [hword]; exact_mod_cast temperatureErrorUnits_above j hj
    rw [temperature_error_eq, div_le_div_iff₀ (by positivity) (by norm_num)]
    linarith

/-- Settles O54: below 128 degrees by the bounds of the two roundings, above by evaluation; the worst value is one of
those above. -/
theorem temperatureErrorBound : Obligations.TemperatureErrorBound := by
  refine ⟨phys32_temperature_error, ?_⟩
  rw [temperature_error_eq, temperatureErrorUnits_worst]
  norm_num

end Sys2Proof.Machine
end

section
/-! PROOFS. Order, range and sign of the physical values (spec/42_reading_decoder.md R75, R81 (c)): values of raw words
differ by steps of 4, far more than any error. -/

namespace Sys2Proof.Machine

open Sys2Proof.Safety

/-- Settles O55: a step of 4 raises the exact temperature by more than twice the error bound, and humidity is exact. -/
theorem conversionIsStrictlyIncreasing : Obligations.ConversionIsStrictlyIncreasing := by
  intro kind raw raw' hlt
  have hstep : (valueOf raw).toNat + 4 ≤ (valueOf raw').toNat := by
    have hvalue := valueOf_toNat raw
    have hvalue' := valueOf_toNat raw'
    omega
  have hstep' : ((valueOf raw).toNat : ℚ) + 4 ≤ (valueOf raw').toNat := by exact_mod_cast hstep
  cases kind with
  | temperature =>
    obtain ⟨-, hhigh⟩ := abs_le.1 (phys32_temperature_error raw)
    obtain ⟨hlow, -⟩ := abs_le.1 (phys32_temperature_error raw')
    rw [tExact_eq] at hlow hhigh
    norm_num at hlow hhigh
    linarith
  | humidity =>
    rw [value32_phys32_humidity, value32_phys32_humidity, hExact_eq, hExact_eq]
    linarith

theorem phys32_mono (kind : MeasurementKind) {raw raw' : Word16} (h : (valueOf raw).toNat ≤ (valueOf raw').toNat) :
    value32 (phys32 kind (valueOf raw)) ≤ value32 (phys32 kind (valueOf raw')) := by
  rcases h.lt_or_eq with hlt | heq
  · exact (conversionIsStrictlyIncreasing kind raw raw' hlt).le
  · rw [BitVec.eq_of_toNat_eq heq]

/-- Every result lies between those of the least and the greatest value. -/
theorem phys32_between (kind : MeasurementKind) (raw : Word16) :
    value32 (phys32 kind 0x0000) ≤ value32 (phys32 kind (valueOf raw)) ∧
      value32 (phys32 kind (valueOf raw)) ≤ value32 (phys32 kind 0xFFFC) := by
  have hleast : valueOf 0x0000 = 0x0000 := rfl
  have hgreatest : valueOf 0xFFFC = 0xFFFC := rfl
  rw [← hleast, ← hgreatest]
  refine ⟨phys32_mono kind (Nat.zero_le _), phys32_mono kind ?_⟩
  have hvalue := valueOf_toNat raw
  have hraw := raw.isLt
  have hbound : (valueOf 0xFFFC).toNat = 65532 := rfl
  omega

/-! On which side of zero and of 100 a value lies. -/

theorem humidity_sign (raw : Word16) :
    ((valueOf raw).toNat ≤ 0x0C48 ∧ value32 (phys32 .humidity (valueOf raw)) ≤ -1 / 1000) ∨
    (0x0C4C ≤ (valueOf raw).toNat ∧ 1 / 1000 ≤ value32 (phys32 .humidity (valueOf raw))) := by
  have hvalue := valueOf_toNat raw
  rw [value32_phys32_humidity, hExact_eq]
  rcases Nat.lt_or_ge 0x0C48 (valueOf raw).toNat with hlt | hle
  · have hge : 0x0C4C ≤ (valueOf raw).toNat := by omega
    have hge' : (0x0C4C : ℚ) ≤ (valueOf raw).toNat := by exact_mod_cast hge
    exact .inr ⟨hge, by linarith⟩
  · have hle' : ((valueOf raw).toNat : ℚ) ≤ 0x0C48 := by exact_mod_cast hle
    exact .inl ⟨hle, by linarith⟩

theorem humidity_above_100 (raw : Word16) :
    100 < value32 (phys32 .humidity (valueOf raw)) ↔ 0xD918 ≤ (valueOf raw).toNat := by
  have hvalue := valueOf_toNat raw
  rw [value32_phys32_humidity, hExact_eq]
  rcases Nat.lt_or_ge 0xD914 (valueOf raw).toNat with hlt | hle
  · have hge : 0xD918 ≤ (valueOf raw).toNat := by omega
    have hge' : (0xD918 : ℚ) ≤ (valueOf raw).toNat := by exact_mod_cast hge
    exact iff_of_true (by linarith) hge
  · have hle' : ((valueOf raw).toNat : ℚ) ≤ 0xD914 := by exact_mod_cast hle
    exact iff_of_false (by linarith) (by omega)

theorem temperature_sign (raw : Word16) :
    ((valueOf raw).toNat ≤ 0x4440 ∧ value32 (phys32 .temperature (valueOf raw)) ≤ -1 / 1000) ∨
    (0x4444 ≤ (valueOf raw).toNat ∧ 1 / 1000 ≤ value32 (phys32 .temperature (valueOf raw))) := by
  have hvalue := valueOf_toNat raw
  obtain ⟨hlow, hhigh⟩ := abs_le.1 (phys32_temperature_error raw)
  rw [tExact_eq] at hlow hhigh
  norm_num at hlow hhigh
  rcases Nat.lt_or_ge 0x4440 (valueOf raw).toNat with hlt | hle
  · have hge : 0x4444 ≤ (valueOf raw).toNat := by omega
    have hge' : (0x4444 : ℚ) ≤ (valueOf raw).toNat := by exact_mod_cast hge
    exact .inr ⟨hge, by linarith⟩
  · have hle' : ((valueOf raw).toNat : ℚ) ≤ 0x4440 := by exact_mod_cast hle
    exact .inl ⟨hle, by linarith⟩

/-! No result is an infinity, a NaN, a zero or a subnormal. -/

/-- A number of at least 2^23 units is no subnormal. -/
theorem exponent_ne_zero {f : Bits32} (h : 2 ^ 23 / 2 ^ 149 ≤ |value32 f|) : f.extractLsb' 23 8 ≠ 0 := by
  intro hzero
  have hfraction := (f.extractLsb' 0 23).isLt
  have hunits : |units32 f| < 2 ^ 23 := by
    have hcount : units32 f =
        if f.getLsbD 31 then -((f.extractLsb' 0 23).toNat : Int) else (f.extractLsb' 0 23).toNat := by
      simp only [units32, hzero]; rfl
    have habs : |units32 f| = (f.extractLsb' 0 23).toNat := by
      rw [hcount]
      split
      · rw [abs_neg, Nat.abs_cast]
      · rw [Nat.abs_cast]
    rw [habs]; exact_mod_cast hfraction
  have hunits' : |(units32 f : ℚ)| < 2 ^ 23 := by exact_mod_cast hunits
  rw [value32, abs_div, abs_of_pos (by positivity : (0 : ℚ) < 2 ^ 149), div_le_div_iff_of_pos_right (by positivity)]
    at h
  linarith

theorem finite32_phys32 (kind : MeasurementKind) (v : Word16) : finite32 (phys32 kind v) = true := by
  cases kind with
  | humidity => exact finite32_add32 (by decide) (abs_sum_humidity_lt v)
  | temperature =>
    have hv := word16_toNat_le v
    have hv0 : (0 : ℚ) ≤ v.toNat := Nat.cast_nonneg _
    obtain ⟨hlow, hhigh⟩ := abs_le.1 (scaled32_temperature_error v)
    refine finite32_add32 (t := 133) (by decide) ?_
    rw [value32_offset_temperature, abs_lt]
    norm_num at hlow hhigh ⊢
    constructor <;> linarith

theorem abs_phys32_ge (kind : MeasurementKind) (raw : Word16) :
    1 / 1000 ≤ |value32 (phys32 kind (valueOf raw))| := by
  have away {x : ℚ} (hx : x ≤ -1 / 1000 ∨ 1 / 1000 ≤ x) : 1 / 1000 ≤ |x| :=
    le_abs'.2 (hx.imp_left fun h => h.trans (by norm_num))
  cases kind with
  | humidity => exact away ((humidity_sign raw).imp And.right And.right)
  | temperature => exact away ((temperature_sign raw).imp And.right And.right)

/-- A number on one side of zero, by the bound that says which. -/
theorem sign_iff {v below above : Nat} {x : ℚ} (hbetween : below < above)
    (h : (v ≤ below ∧ x ≤ -1 / 1000) ∨ (above ≤ v ∧ 1 / 1000 ≤ x)) : (x < 0 ↔ v ≤ below) ∧ (0 < x ↔ above ≤ v) := by
  rcases h with ⟨hle, hneg⟩ | ⟨hge, hpos⟩
  · exact ⟨iff_of_true (by linarith) hle, iff_of_false (by linarith) (by omega)⟩
  · exact ⟨iff_of_false (by linarith) (by omega), iff_of_true (by linarith) hge⟩

/-- Settles O56: the conversions are increasing, so their ends bound them; a step of 4 in the value leaves no result
near 0, where the sign would be in doubt and the subnormal numbers are. -/
theorem physicalRange : Obligations.PhysicalRange := by
  obtain ⟨hTleast, hTgreatest, -⟩ := phys32_temperature_values
  obtain ⟨-, hHgreatest, -⟩ := phys32_humidity_values
  intro raw
  have hT := phys32_between .temperature raw
  obtain ⟨-, hHhigh⟩ := phys32_between .humidity raw
  rw [hTleast, hTgreatest] at hT
  rw [hHgreatest] at hHhigh
  have hHlow : -6 ≤ value32 (phys32 .humidity (valueOf raw)) := by
    rw [value32_phys32_humidity]; exact (hExact_bounds _).1
  obtain ⟨hHneg, -⟩ := sign_iff (by decide) (humidity_sign raw)
  obtain ⟨hTneg, hTpos⟩ := sign_iff (by decide) (temperature_sign raw)
  have hnormal (kind : MeasurementKind) : (phys32 kind (valueOf raw)).extractLsb' 23 8 ≠ 0 :=
    exponent_ne_zero (le_trans (by norm_num) (abs_phys32_ge kind raw))
  exact ⟨hT, ⟨hHlow, hHhigh⟩, hHneg, humidity_above_100 raw, hTneg, hTpos,
    fun kind => ⟨finite32_phys32 kind _, hnormal kind⟩⟩

/-- Settles O57: the exact values lie well within the intervals. -/
theorem sourceConversionIntervals : Obligations.SourceConversionIntervals := by
  constructor
  · have hvalue : valueOf 0x4E84 = 0x4E84 := rfl
    have hnat : (0x4E84 : Word16).toNat = 20100 := rfl
    have herror := phys32_temperature_error 0x4E84
    rw [hvalue, tExact_eq, hnat, abs_le] at herror
    norm_num at herror ⊢
    constructor <;> linarith
  · have hnat : (0x6838 : Word16).toNat = 26680 := rfl
    rw [value32_phys32_humidity, hExact_eq, hnat]
    norm_num

end Sys2Proof.Machine
end
